-- ==== Sys2Proof/Word.lean ====
section
/-! DEFINITION. The word types of the hardware (spec 00_scope.md R6, R7, R8).

Every value is a bit pattern of a stated width. Bit `i` of a value `v` is `v.getLsbD i`, bit 0 the least
significant (R7); the unsigned reading `u(v)` is `v.toNat` and the signed reading `s(v)` is `v.toInt` (R8);
`zext_N(v)` is `v.setWidth N` for `N` at least the width of `v`, and `+_W`, `-_W` are the bit vector operations (R9). -/

namespace Sys2Proof

/-- A byte: the width of the opcode and of the status code, and one cell of the memory list. -/
abbrev Byte := BitVec 8

/-- The 32-bit word of the `.W` operations (R6 `W32`); also the width of `start` and `count` (R6 `IDXW`). -/
abbrev Word32 := BitVec 32

/-- The 64-bit word (R6 `W64`): operands, array elements, results; also a word address (R6 `AW`). -/
abbrev Word := BitVec 64

/-- A request packet (R60, R6 `REQW`). -/
abbrev Request := BitVec 200

/-- A response packet (R61, R6 `RSPW`). -/
abbrev Response := BitVec 72

end Sys2Proof
end

