-- ==== Sys2Proof/Syntax.lean ====
section
/-! DEFINITION. The instructions: one constructor for each of the twelve rows of spec/opcode_table.json
(30_encoding.md R64). The instruction of this hardware is the request packet (R60), so every constructor carries
the packet's four other fields, whole: `a`, `b`, `start`, `count`. Which of them an operation reads is said by its
meaning (R65); the ones it ignores are still part of the request that is captured at acceptance (R27, R177). -/

namespace Sys2Proof

/-- The operations of R64, in the table's order. -/
inductive Instr where
  | ispow2W (a b : Word) (start count : Word32)
  | ispow2D (a b : Word) (start count : Word32)
  | nxtpow2W (a b : Word) (start count : Word32)
  | nxtpow2D (a b : Word) (start count : Word32)
  | ntz (a b : Word) (start count : Word32)
  | ntz2 (a b : Word) (start count : Word32)
  | ntz3 (a b : Word) (start count : Word32)
  | poparr (a b : Word) (start count : Word32)
  | popandn (a b : Word) (start count : Word32)
  | popint (a b : Word) (start count : Word32)
  | popuni (a b : Word) (start count : Word32)
  | popxor (a b : Word) (start count : Word32)
  deriving DecidableEq, Repr

end Sys2Proof
end

