-- ==== Sys2Proof/Decode.lean ====
section
/-! DEFINITION. Packet layouts (30_encoding.md R60), the opcode map (R64), the decoder (R66, R71), total on every
packet and rejecting by name, and the encoder beside it. -/

namespace Sys2Proof

/-! ### The fields of a request packet (R60) -/

/-- R60: bits `[7:0]`, the opcode. -/
def Request.op (r : Request) : Byte := r.extractLsb' 0 8
/-- R60: bits `[71:8]`, the operand word of a scalar operation or the base of array A. -/
def Request.a (r : Request) : Word := r.extractLsb' 8 64
/-- R60: bits `[135:72]`, the base of array B. -/
def Request.b (r : Request) : Word := r.extractLsb' 72 64
/-- R60: bits `[167:136]`, the index of the first window element. -/
def Request.start (r : Request) : Word32 := r.extractLsb' 136 32
/-- R60: bits `[199:168]`, the number of window elements. -/
def Request.count (r : Request) : Word32 := r.extractLsb' 168 32

/-- R60: a packet from its fields, `op` in the least significant byte. -/
def Request.pack (op : Byte) (a b : Word) (start count : Word32) : Request :=
  count ++ start ++ b ++ a ++ op

/-! ### The opcode map (R64) -/

/-- R64: the opcode of each operation. -/
def Instr.opcode : Instr → Byte
  | .ispow2W .. => 0x01#8
  | .ispow2D .. => 0x02#8
  | .nxtpow2W .. => 0x03#8
  | .nxtpow2D .. => 0x04#8
  | .ntz .. => 0x08#8
  | .ntz2 .. => 0x09#8
  | .ntz3 .. => 0x0A#8
  | .poparr .. => 0x10#8
  | .popandn .. => 0x11#8
  | .popint .. => 0x12#8
  | .popuni .. => 0x13#8
  | .popxor .. => 0x14#8

/-- The field `a` of an instruction's request. -/
def Instr.a : Instr → Word
  | .ispow2W a _ _ _ | .ispow2D a _ _ _ | .nxtpow2W a _ _ _ | .nxtpow2D a _ _ _
  | .ntz a _ _ _ | .ntz2 a _ _ _ | .ntz3 a _ _ _
  | .poparr a _ _ _ | .popandn a _ _ _ | .popint a _ _ _ | .popuni a _ _ _ | .popxor a _ _ _ => a

/-- The field `b` of an instruction's request. -/
def Instr.b : Instr → Word
  | .ispow2W _ b _ _ | .ispow2D _ b _ _ | .nxtpow2W _ b _ _ | .nxtpow2D _ b _ _
  | .ntz _ b _ _ | .ntz2 _ b _ _ | .ntz3 _ b _ _
  | .poparr _ b _ _ | .popandn _ b _ _ | .popint _ b _ _ | .popuni _ b _ _ | .popxor _ b _ _ => b

/-- The field `start` of an instruction's request. -/
def Instr.start : Instr → Word32
  | .ispow2W _ _ st _ | .ispow2D _ _ st _ | .nxtpow2W _ _ st _ | .nxtpow2D _ _ st _
  | .ntz _ _ st _ | .ntz2 _ _ st _ | .ntz3 _ _ st _
  | .poparr _ _ st _ | .popandn _ _ st _ | .popint _ _ st _ | .popuni _ _ st _ | .popxor _ _ st _ => st

/-- The field `count` of an instruction's request. -/
def Instr.count : Instr → Word32
  | .ispow2W _ _ _ n | .ispow2D _ _ _ n | .nxtpow2W _ _ _ n | .nxtpow2D _ _ _ n
  | .ntz _ _ _ n | .ntz2 _ _ _ n | .ntz3 _ _ _ n
  | .poparr _ _ _ n | .popandn _ _ _ n | .popint _ _ _ n | .popuni _ _ _ n | .popxor _ _ _ n => n

/-- R64: the twelve legal opcodes, in the table's order. -/
def legalOpcodes : List Byte :=
  [0x01#8, 0x02#8, 0x03#8, 0x04#8, 0x08#8, 0x09#8, 0x0A#8, 0x10#8, 0x11#8, 0x12#8, 0x13#8, 0x14#8]

/-! ### Decoding (R66, R71) -/

/-- Why a packet is no instruction. -/
inductive DecodeError where
  /-- R66: the opcode is none of the twelve. Safe: the unit answers such a packet with `ILLEGAL_OP` (R153). -/
  | illegalOpcode (op : Byte)
  deriving DecidableEq, Repr

/-- R71: total on every packet. The operation is selected by all eight bits of `op` alone (R64); the last arm
refuses, so an opcode nobody listed is illegal and never guessed. -/
def decode (r : Request) : Except DecodeError Instr :=
  match r.op with
  | 0x01#8 => .ok (.ispow2W r.a r.b r.start r.count)
  | 0x02#8 => .ok (.ispow2D r.a r.b r.start r.count)
  | 0x03#8 => .ok (.nxtpow2W r.a r.b r.start r.count)
  | 0x04#8 => .ok (.nxtpow2D r.a r.b r.start r.count)
  | 0x08#8 => .ok (.ntz r.a r.b r.start r.count)
  | 0x09#8 => .ok (.ntz2 r.a r.b r.start r.count)
  | 0x0A#8 => .ok (.ntz3 r.a r.b r.start r.count)
  | 0x10#8 => .ok (.poparr r.a r.b r.start r.count)
  | 0x11#8 => .ok (.popandn r.a r.b r.start r.count)
  | 0x12#8 => .ok (.popint r.a r.b r.start r.count)
  | 0x13#8 => .ok (.popuni r.a r.b r.start r.count)
  | 0x14#8 => .ok (.popxor r.a r.b r.start r.count)
  | op => .error (.illegalOpcode op)

/-- R60, R64: the packet of an instruction. -/
def encode (i : Instr) : Request :=
  Request.pack i.opcode i.a i.b i.start i.count

/-- The packet whose low `nbits` bits are those of `w` and whose other bits are zero. There is one packet length
(R67), and bit 0 of the number is bit 0 of the packet (R60), which is also how the opcode table numbers bits. -/
def packetOfTableWord (nbits w : Nat) : Request := BitVec.ofNat 200 (w % 2 ^ nbits)

/-- The instruction the decoder reads from a word of the opcode table's numbering. -/
def decodeTableWord (nbits w : Nat) : Option Instr :=
  match decode (packetOfTableWord nbits w) with
  | .ok i => some i
  | .error _ => none

end Sys2Proof
end

