-- ==== Sys2Proof/Machine/Bits.lean ====
section
/-! DEFINITION. The bit functions the operations share: set bits (42_popcount_reductions.md R120), the lowest set
bit (41_trailing_zero_count.md R100), one fill step (40_power_of_two.md R84). All are functions of the bit pattern
and never of the sign (00_scope.md R8). -/

namespace Sys2Proof.Machine

/-- R120: `v[0] + v[1] + ... + v[W-1]`. -/
def popcount {w : Nat} (v : BitVec w) : Nat :=
  ((List.range w).map fun k => (v.getLsbD k).toNat).sum

/-- R100: the least `i` with `v[i] = 1`, and 0 for the all-zero word. -/
def lowestSetBit {w : Nat} (v : BitVec w) : Nat :=
  ((List.range w).find? fun k => v.getLsbD k).getD 0

/-- R84: one step of the fill, `v | (v >>u k)`. -/
def smear {w : Nat} (v : BitVec w) (k : Nat) : BitVec w := v ||| (v >>> k)

end Sys2Proof.Machine
end

