-- ==== Sys2Proof/Config.lean ====
section
/-! DEFINITION. The parameters of the hardware (spec 00_scope.md R6) and the free values.

Values the spec fixes stand as numbers. Values it leaves open stand as constants with no body, so nothing can be
proved about which value they are. -/

namespace Sys2Proof.Config

/-- R6 `W32`: width of the operand of the `.W` operations. -/
abbrev W32 : Nat := 32
/-- R6 `W64`: width of a Word. -/
abbrev W64 : Nat := 64
/-- R6 `ACCW`: width of the reduction total. -/
abbrev ACCW : Nat := 64
/-- R6 `IDXW`: width of `start` and of `count`, both unsigned. -/
abbrev IDXW : Nat := 32
/-- R6 `AW`: width of a word address. -/
abbrev AW : Nat := 64
/-- R6 `OPW`: width of the opcode field. -/
abbrev OPW : Nat := 8
/-- R6 `REQW`: width of a request packet. -/
abbrev REQW : Nat := 200
/-- R6 `RSPW`: width of a response packet. -/
abbrev RSPW : Nat := 72
/-- R6 `MAXOUT`: requests the unit holds at once. -/
abbrev MAXOUT : Nat := 1

/-- R6 `NHP2_NEG_32`, R88 item 4: what `NXTPOW2.W` answers on a negative operand in a conforming implementation
that does not take the reference choice. Only determinism is assumed (log entry 1). -/
opaque nhp2Neg32 : Word32 → Word32

/-- R6 `NHP2_NEG_64`, R88 item 4: the same for `NXTPOW2.D` (log entry 1). -/
opaque nhp2Neg64 : Word → Word

/-- R6 `NTZ2_OOC`, R103: what `NTZ2` answers outside its contract set in a conforming implementation that does not
take the reference choice; a value in 0 to 63 (log entry 1). -/
opaque ntz2Ooc : Word → BitVec 6

/-- R6 `NTZ3_OOC`, R105: the same for `NTZ3` (log entry 1). -/
opaque ntz3Ooc : Word → BitVec 6

/-- The `n`-th free value of width `w`: what a field of the in-flight record holds after the reset input has made
it unspecified (R170). The step draws a fresh `n` each time (log entry 2). -/
opaque freeValue : (w : Nat) → Nat → BitVec w

end Sys2Proof.Config
end

