-- ==== Sys2Proof/Machine/State.lean ====
section
/-! DEFINITION. The state of the machine (10_state.md): the unit's in-flight record (R27), the three channels (R26),
the platform's memory (R32, R40), the other agents' pending actions (R26, R170, R172), and the model's own counter
of free values. Also the reasons a step can stop, and the state right after reset (R33).

The spec gives the unit no general registers (R21), no program counter (R22), no flags (R23), no system or control
registers (R24), no other register files (R25), no interrupt, mask or vector (R155, R157) and no mode (R160): State
has no field for any of them. -/

namespace Sys2Proof.Machine

/-- R27 `phase`: where the unit is in the life of an operation. -/
inductive Phase where
  | idle
  | busy
  | done
  deriving DecidableEq, Repr

/-- R27 `sel`: which array's word at element `i` is read next. -/
inductive Sel where
  | a
  | b
  deriving DecidableEq, Repr

/-- Which instance of the four configuration functions (R6, R88 item 4, R103, R105) the machine is built with.
It is fixed for a machine: no step changes it. -/
inductive ConfigChoice where
  /-- The reference instances, which this hardware takes (decisions D19 and D20). -/
  | reference
  /-- Any other conforming implementation: the constants of `Config`, of which nothing is known. -/
  | uninterpreted
  deriving DecidableEq, Repr

/-- One action of the agents around the unit (R26), or a turn of the unit itself. `State.agenda` lists them in the
order in which they happen, so that plain data says who moves next. -/
inductive Event where
  /-- The unit takes the step its phase enables (R28, R29, R30). -/
  | unit
  /-- The requester offers one more request on the REQ channel (R26). -/
  | offer (r : Request)
  /-- The requester starts (`true`) or stops (`false`) accepting responses (R26, R30). -/
  | acceptResponses (ready : Bool)
  /-- The platform starts (`true`) or stops (`false`) answering memory reads (R31, R178). -/
  | answerReads (ready : Bool)
  /-- From now on the platform answers a read of word address `wa` with this word, or with `Err` for `none`: an
  agent of the platform writes memory, or the platform's map changes (R26, R42, R172). -/
  | memory (wa : Word) (answer : Option Word)
  /-- The reset input is asserted and released (R170). -/
  | reset
  deriving DecidableEq, Repr

/-- The platform's memory (R32, R40) as a list of cells, strictly rising, in the one canonical form that
`Memory.wf` says. The spec's memory has words, not bytes: the word at word address `wa` is held as the eight cells
`8 * wa` to `8 * wa + 7`, which is this model's way to write a word down and nothing the unit can see (R45; log
entry 4). A word address with no cells is one the platform answers with `Err` (R42; log entry 3). -/
abbrev Memory := List Host.Cell

/-- Why a step stops. The hardware itself never stops: a failed operation is a response (R150, R157). -/
inductive Fault where
  /-- Raised by a scalar meaning, and by the unit's step on an illegal `cur`, in phase `BUSY`: R29 describes a READ of
  a reduction only, and no run reaches such a state (R28 enters `BUSY` for reductions alone; `Inv` of
  Sys2Proof/Safety.lean). Safe: the machine stops where the spec gives no step (log entry 5). -/
  | busyWithoutReduction
  deriving DecidableEq, Repr

/-- Why an instruction is refused. -/
inductive Refusal where
  /-- Raised by an arm of `exec` whose instruction has no meaning yet: none is left. Safe. -/
  | notModelled (mnemonic : String)
  deriving DecidableEq, Repr

/-- The whole machine. -/
structure State where
  /-- R27: valid in every phase. -/
  phase : Phase
  /-- R27: the request being executed, captured whole at acceptance; valid in `BUSY` and `DONE`. -/
  cur : Request
  /-- R27: index, relative to `start`, of the next window element to read; valid in `BUSY`. -/
  i : BitVec 33
  /-- R27: which array is read next; valid in `BUSY`. -/
  sel : Sel
  /-- R27 `wa_reg`: the word of array A at element `i`; valid in `BUSY` with `sel = B`. -/
  waReg : Word
  /-- R27: running total of the reduction; valid in `BUSY`. -/
  acc : Word
  /-- R27: the response waiting to be delivered; valid in `DONE`. -/
  out : Response
  /-- REQ channel (R26): the requests the requester offers and the unit has not accepted, oldest first. -/
  reqs : List Request
  /-- RSP channel (R26): the responses the requester has accepted, oldest first. -/
  rsps : List Response
  /-- MEM channel (R26, R62): the word addresses of the reads the unit has sent, oldest first. -/
  reads : List Word
  /-- The requester accepts responses (R30). -/
  rspReady : Bool
  /-- The platform answers reads (R31, R178). -/
  memReady : Bool
  /-- The platform's memory (R32): the unit only reads it (R44). -/
  mem : Memory
  /-- What happens next, oldest first; with nothing listed the unit moves (log entry 6). -/
  agenda : List Event
  /-- The instance of the configuration functions (R6): fixed for a machine. -/
  config : ConfigChoice
  /-- The model's own: the number of free values drawn so far (log entry 2). -/
  freeCount : Nat
  deriving DecidableEq, Repr

/-- The machine right after reset (R33): phase `IDLE`, nothing on any channel. The six fields R33 leaves unspecified
are zero (log entry 7), memory lists nothing (log entry 3), both channels are served (log entry 6), and the
configuration functions are the reference instances this hardware takes (D19, D20; log entry 1). -/
def State.reset : State where
  phase := .idle
  cur := 0#200
  i := 0#33
  sel := .a
  waReg := 0#64
  acc := 0#64
  out := 0#72
  reqs := []
  rsps := []
  reads := []
  rspReady := true
  memReady := true
  mem := []
  agenda := []
  config := .reference
  freeCount := 0

end Sys2Proof.Machine
end

