-- ==== Sys2Proof/Machine/Flags.lean ====
section
/-! DEFINITION. The outcome of an operation. The hardware has no flags and no condition codes (10_state.md R23): how
an operation ended is the `status` field of its own response (60_exceptions.md R150), laid out as R61 says. -/

namespace Sys2Proof.Machine

/-- R150: the operation completed; `value` is its result. -/
def statusOk : Byte := 0#8
/-- R150, R151: a memory read of a reduction answered `Err`; `value` is the word address of that read. -/
def statusAccessFault : Byte := 1#8
/-- R150, R153: the opcode is none of the twelve; `value` is 0. -/
def statusIllegalOp : Byte := 2#8

/-- R61: a response packet from its fields, `status` in `[7:0]` and `value` in `[71:8]`. -/
def responseOf (status : Byte) (value : Word) : Response := value ++ status

/-- R61: bits `[7:0]`. -/
def responseStatus (r : Response) : Byte := r.extractLsb' 0 8

/-- R61: bits `[71:8]`. -/
def responseValue (r : Response) : Word := r.extractLsb' 8 64

end Sys2Proof.Machine
end

