-- ==== Sys2Proof/Machine/Operands.lean ====
section
/-! DEFINITION. Operand assembly and result placement (30_encoding.md R63, R65) and the one addressing form
(20_memory.md R41). There are no immediates, no register specifiers and no addressing-mode bits (R65). -/

namespace Sys2Proof.Machine

/-- R65: the operand of `ISPOW2.W` and `NXTPOW2.W` is `a[31:0]`; `a[63:32]` is ignored. -/
def operand32 (a : Word) : Word32 := a.extractLsb' 0 32

/-- R65: the operand of `ISPOW2.D`, `NXTPOW2.D`, `NTZ`, `NTZ2`, `NTZ3` is `a[63:0]`. -/
def operand64 (a : Word) : Word := a

/-- R63: a Boolean result is 1 or 0 in bit 0, bits `[63:1]` zero. -/
def placeBool (x : Bool) : Word := if x then 1#64 else 0#64

/-- R63: a 32-bit result pattern in `[31:0]`, zeros above: zero extension, also when bit 31 is set. -/
def place32 (x : Word32) : Word := x.setWidth 64

/-- R63: a trailing-zero count in `[5:0]`, bits `[63:6]` zero. -/
def placeCount (x : BitVec 6) : Word := x.setWidth 64

/-- R41: the word address of window element `j` of the array at `base`. The additions wrap modulo `2^64`;
`start` is zero-extended (R65). -/
def elementAddress (base : Word) (start : Word32) (j : Nat) : Word :=
  base + start.setWidth 64 + BitVec.ofNat 64 j

end Sys2Proof.Machine
end

