-- ==== Sys2Proof/Machine/Ops.lean ====
section
/-! DEFINITION. The named operations over memory and over the unit's record: the memory cells, the read port
(20_memory.md R42), how an operation ends (60_exceptions.md R150 to R153), and the unit's steps ACCEPT, READ and
DELIVER (10_state.md R28 to R30) and reset (70_reset_and_hazards.md R170). -/

namespace Sys2Proof.Machine

/-! ### Memory cells -/

/-- The byte in the cell with key `k`, if it is listed. -/
def Memory.cell? : Memory → Nat → Option Byte
  | [], _ => none
  | (key, v) :: rest, k => if key = k then some v else Memory.cell? rest k

/-- The cell with key `k` set to `v`, keeping the keys rising. -/
def Memory.setCell : Memory → Nat → Byte → Memory
  | [], k, v => [(k, v)]
  | (key, x) :: rest, k, v =>
    if k < key then (k, v) :: (key, x) :: rest
    else if k = key then (k, v) :: rest
    else (key, x) :: Memory.setCell rest k v

/-- The key of cell `lane` of the word at `wa` (log entry 4). -/
def cellKey (wa : Word) (lane : Nat) : Nat := 8 * wa.toNat + lane

/-- The canonical form: keys strictly rising, none outside the `2^64` words, and each word listed whole or not at
all. No cell can equal what an unlisted address reads as, since that is no value. -/
abbrev Memory.wf (m : Memory) : Prop :=
  (m.map Prod.fst).Pairwise (· < ·) ∧
    (∀ c ∈ m, c.1 < 2 ^ 67) ∧
    ∀ c ∈ m, ∀ lane ∈ List.range 8, 8 * (c.1 / 8) + lane ∈ m.map Prod.fst

/-- The word at word address `wa` (R40), if the platform has one there: its eight cells, lane 0 least significant. -/
def Memory.word? (m : Memory) (wa : Word) : Option Word :=
  match m.cell? (cellKey wa 0), m.cell? (cellKey wa 1), m.cell? (cellKey wa 2), m.cell? (cellKey wa 3),
      m.cell? (cellKey wa 4), m.cell? (cellKey wa 5), m.cell? (cellKey wa 6), m.cell? (cellKey wa 7) with
  | some c0, some c1, some c2, some c3, some c4, some c5, some c6, some c7 =>
    some (c7 ++ c6 ++ c5 ++ c4 ++ c3 ++ c2 ++ c1 ++ c0)
  | _, _, _, _, _, _, _, _ => none

/-- The word at `wa` becomes `d`: all eight cells in one operation (R48, single-copy atomic). -/
def Memory.setWord (m : Memory) (wa d : Word) : Memory :=
  (List.range 8).foldl (fun m lane => m.setCell (cellKey wa lane) (d.extractLsb' (8 * lane) 8)) m

/-- The platform no longer has a word at `wa`: its cells go. -/
def Memory.dropWord (m : Memory) (wa : Word) : Memory :=
  m.filter fun c => c.1 / 8 ≠ wa.toNat

/-- What the platform answers at `wa` from now on (R26, R42, R172). -/
def Memory.answer (m : Memory) (wa : Word) : Option Word → Memory
  | some d => m.setWord wa d
  | none => m.dropWord wa

/-! ### The read port -/

/-- R42, R62: the answer to a read. With `err` there is no data to look at. -/
inductive MemAnswer where
  | data (d : Word)
  | err
  deriving DecidableEq, Repr

/-- R42: `MemRead(wa, 64)`. A read has no side effect on memory (R44, R49). -/
def memRead (m : Memory) (wa : Word) : MemAnswer :=
  match m.word? wa with
  | some d => .data d
  | none => .err

/-! ### How an operation ends -/

/-- R157: every end of an operation, successful or not, writes `out` and makes the phase `DONE`, and changes nothing
else. -/
def endOperation (status : Byte) (value : Word) (s : State) : State :=
  { s with out := responseOf status value, phase := .done }

/-- R151: `raise AccessFault(wa)`. The running total is not part of the response. -/
def raiseAccessFault (wa : Word) (s : State) : State := endOperation statusAccessFault wa s

/-- R153: `raise IllegalOp`. -/
def raiseIllegalOp (s : State) : State := endOperation statusIllegalOp 0#64 s

/-! ### The unit's steps -/

/-- R28, R177: the packet is captured whole. -/
def capture (r : Request) (s : State) : State := { s with cur := r }

/-- R28, `Illegal`: the request is accepted, nothing but `op` is looked at, no read is performed (R66, R153). -/
def acceptIllegal (r : Request) (s : State) : State := raiseIllegalOp (capture r s)

/-- R28, `Scalar(f)`: the result is ready in the one step. -/
def acceptScalar (r : Request) (value : Word) (s : State) : State := endOperation statusOk value (capture r s)

/-- R28, `Reduction(g, p)`: an empty window answers 0 with no read (R129); otherwise the unit becomes `BUSY`. -/
def acceptReduction (r : Request) (count : Word32) (s : State) : State :=
  if count.toNat = 0 then endOperation statusOk 0#64 (capture r s)
  else { capture r s with i := 0#33, sel := .a, acc := 0#64, phase := .busy }

/-- R29, the last lines: element `i` is counted as the word `e`, and after the last element the total is the
response. -/
def countElement (e : Word) (count : Word32) (s : State) : State :=
  let acc := s.acc + BitVec.ofNat 64 (popcount e)
  let i := s.i + 1#33
  let s := { s with acc := acc, i := i, sel := .a }
  if i.toNat = count.toNat then endOperation statusOk acc s else s

/-- R29, R41: the word address the next READ sends, for the array `sel` names. -/
def nextAddress (a b : Word) (start : Word32) (s : State) : Word :=
  elementAddress (if s.sel = .a then a else b) start s.i.toNat

/-- R26, R62: a read of `wa` goes out on the MEM channel. -/
def sendRead (wa : Word) (s : State) : State := { s with reads := s.reads ++ [wa] }

/-- R29: what follows from the answer to the read of `wa`: the fault of R151; or, first in a pairwise reduction, the word
of array A is held and array B is next; or the element is counted. -/
def takeAnswer (g : Word → Word → Word) (pairwise : Bool) (count : Word32) (wa : Word) (answer : MemAnswer)
    (s : State) : State :=
  match answer with
  | .err => raiseAccessFault wa s
  | .data d =>
    if s.sel = .a ∧ pairwise = true then { s with waReg := d, sel := .b }
    else countElement (if pairwise then g s.waReg d else g d 0#64) count s

/-- R29: one memory read, and what follows from its answer. While the platform does not answer, the step is not
taken (R178). -/
def readStep (g : Word → Word → Word) (pairwise : Bool) (a b : Word) (start count : Word32) (s : State) : State :=
  if s.memReady then
    takeAnswer g pairwise count (nextAddress a b start s) (memRead s.mem (nextAddress a b start s))
      (sendRead (nextAddress a b start s) s)
  else s

/-- R30, the return to `IDLE`: `out` moves to the requester and nothing else changes. While the requester does not
accept, the response waits (R173). -/
def deliver (s : State) : State :=
  if s.rspReady then { s with phase := .idle, rsps := s.rsps ++ [s.out] } else s

/-- The value of `sel` a free bit stands for. -/
def selOfBit (x : BitVec 1) : Sel := if x = 0#1 then .a else .b

/-- R170, R33: the phase becomes `IDLE` and every other field of the record becomes unspecified (a fresh free value;
log entry 2). An operation in flight gets no response, a waiting response is dropped, memory does not change. -/
def resetUnit (s : State) : State :=
  { s with
    phase := .idle
    cur := Config.freeValue 200 s.freeCount
    i := Config.freeValue 33 (s.freeCount + 1)
    sel := selOfBit (Config.freeValue 1 (s.freeCount + 2))
    waReg := Config.freeValue 64 (s.freeCount + 3)
    acc := Config.freeValue 64 (s.freeCount + 4)
    out := Config.freeValue 72 (s.freeCount + 5)
    freeCount := s.freeCount + 6 }

/-! ### The meaning of an operation in each phase -/

/-- A scalar operation with request `r` and result `value`: ACCEPT in `IDLE` (R28), DELIVER in `DONE` (R30). It has no
READ step, and R29 gives none. -/
def scalarStep (r : Request) (value : Word) (s : State) : Host.Outcome State Fault Refusal :=
  match s.phase with
  | .idle => .next (acceptScalar r value s)
  | .busy => .fault .busyWithoutReduction
  | .done => .next (deliver s)

/-- A reduction with request `r` and combine `g` (R121): ACCEPT in `IDLE` (R28), READ in `BUSY` (R29), DELIVER in `DONE`
(R30). -/
def reductionStep (r : Request) (g : Word → Word → Word) (pairwise : Bool) (a b : Word) (start count : Word32)
    (s : State) : Host.Outcome State Fault Refusal :=
  match s.phase with
  | .idle => .next (acceptReduction r count s)
  | .busy => .next (readStep g pairwise a b start count s)
  | .done => .next (deliver s)

end Sys2Proof.Machine
end

