-- ==== Sys2Proof/Machine/PowerOfTwo.lean ====
section
/-! DEFINITION. The power-of-two operations (40_power_of_two.md): `ISPOW2.W`, `ISPOW2.D`, `NXTPOW2.W`, `NXTPOW2.D`. -/

namespace Sys2Proof.Machine

/-- R80: `x` is not negative and exactly one bit of it is set. -/
def ispow2 {w : Nat} (x : BitVec w) : Bool := !x.msb && popcount x == 1

/-- R84 for `W = 32`: every bit below the highest set bit becomes set. -/
def fill32 (v : Word32) : Word32 := smear (smear (smear (smear (smear v 1) 2) 4) 8) 16

/-- R84 for `W = 64`: the same with the sixth step, by 32. -/
def fill64 (v : Word) : Word := smear (smear (smear (smear (smear (smear v 1) 2) 4) 8) 16) 32

/-- R85 for `W = 32`: decrement, fill, increment, modulo `2^32`. -/
def nhp2_32 (x : Word32) : Word32 := fill32 (x - 1#32) + 1#32

/-- R85 for `W = 64`. -/
def nhp2_64 (x : Word) : Word := fill64 (x - 1#64) + 1#64

/-- R88 item 4: `NHP2_NEG_32`, the result on a negative operand (log entry 1). -/
def nhp2Neg32 (c : ConfigChoice) (x : Word32) : Word32 :=
  match c with
  | .reference => nhp2_32 x
  | .uninterpreted => Config.nhp2Neg32 x

/-- R88 item 4: `NHP2_NEG_64` (log entry 1). -/
def nhp2Neg64 (c : ConfigChoice) (x : Word) : Word :=
  match c with
  | .reference => nhp2_64 x
  | .uninterpreted => Config.nhp2Neg64 x

/-- R86: the result function of `NXTPOW2.W`. -/
def nxtpow2_32 (c : ConfigChoice) (x : Word32) : Word32 := if x.msb then nhp2Neg32 c x else nhp2_32 x

/-- R87: the result function of `NXTPOW2.D`. -/
def nxtpow2_64 (c : ConfigChoice) (x : Word) : Word := if x.msb then nhp2Neg64 c x else nhp2_64 x

/-- R81. -/
def execIspow2W (a b : Word) (start count : Word32) (s : State) : Host.Outcome State Fault Refusal :=
  scalarStep (encode (.ispow2W a b start count)) (placeBool (ispow2 (operand32 a))) s

/-- R82. -/
def execIspow2D (a b : Word) (start count : Word32) (s : State) : Host.Outcome State Fault Refusal :=
  scalarStep (encode (.ispow2D a b start count)) (placeBool (ispow2 (operand64 a))) s

/-- R86. -/
def execNxtpow2W (a b : Word) (start count : Word32) (s : State) : Host.Outcome State Fault Refusal :=
  scalarStep (encode (.nxtpow2W a b start count)) (place32 (nxtpow2_32 s.config (operand32 a))) s

/-- R87. -/
def execNxtpow2D (a b : Word) (start count : Word32) (s : State) : Host.Outcome State Fault Refusal :=
  scalarStep (encode (.nxtpow2D a b start count)) (nxtpow2_64 s.config (operand64 a)) s

end Sys2Proof.Machine
end

