-- ==== Sys2Proof/Machine/Reductions.lean ====
section
/-! DEFINITION. The population-count reductions (42_popcount_reductions.md): `POPARR`, `POPANDN`, `POPINT`, `POPUNI`,
`POPXOR`. Each differs from the others in its combine (R121) and in whether it is pairwise; the reduction itself
(R122) is the shared ACCEPT and READ of Ops.lean. -/

namespace Sys2Proof.Machine

/-- R121 `g_arr`. -/
def combineArr (x _y : Word) : Word := x
/-- R121 `g_andn`. -/
def combineAndn (x y : Word) : Word := x &&& ~~~y
/-- R121 `g_int`. -/
def combineInt (x y : Word) : Word := x &&& y
/-- R121 `g_uni`. -/
def combineUni (x y : Word) : Word := x ||| y
/-- R121 `g_xor`. -/
def combineXor (x y : Word) : Word := x ^^^ y

/-- R124: not pairwise; `b` is never read through. -/
def execPoparr (a b : Word) (start count : Word32) (s : State) : Host.Outcome State Fault Refusal :=
  reductionStep (encode (.poparr a b start count)) combineArr false a b start count s

/-- R125. -/
def execPopandn (a b : Word) (start count : Word32) (s : State) : Host.Outcome State Fault Refusal :=
  reductionStep (encode (.popandn a b start count)) combineAndn true a b start count s

/-- R126. -/
def execPopint (a b : Word) (start count : Word32) (s : State) : Host.Outcome State Fault Refusal :=
  reductionStep (encode (.popint a b start count)) combineInt true a b start count s

/-- R127. -/
def execPopuni (a b : Word) (start count : Word32) (s : State) : Host.Outcome State Fault Refusal :=
  reductionStep (encode (.popuni a b start count)) combineUni true a b start count s

/-- R128. -/
def execPopxor (a b : Word) (start count : Word32) (s : State) : Host.Outcome State Fault Refusal :=
  reductionStep (encode (.popxor a b start count)) combineXor true a b start count s

end Sys2Proof.Machine
end

