-- ==== Sys2Proof/Machine/TrailingZeros.lean ====
section
/-! DEFINITION. The trailing-zero counts (41_trailing_zero_count.md): `NTZ`, `NTZ2`, `NTZ3`. -/

namespace Sys2Proof.Machine

/-- R100: the index of the lowest set bit, and 0 for the all-zero word. -/
def ntz64 (w : Word) : BitVec 6 := BitVec.ofNat 6 (lowestSetBit w)

/-- R102 `SINGLE`: exactly one bit is set. -/
def singleBit (w : Word) : Bool := popcount w == 1

/-- R102: the contract set of `NTZ2`. -/
def ntz2Contract (w : Word) : Bool :=
  w == 0#64 || singleBit w || w == 124555952128#64 || w == 1376285#64

/-- R102: the contract set of `NTZ3`. -/
def ntz3Contract (w : Word) : Bool := w == 0#64 || singleBit w

/-- R103: `NTZ2_OOC`, the result outside the contract set (log entry 1). -/
def ntz2Ooc (c : ConfigChoice) (w : Word) : BitVec 6 :=
  match c with
  | .reference => ntz64 w
  | .uninterpreted => Config.ntz2Ooc w

/-- R105: `NTZ3_OOC` (log entry 1). -/
def ntz3Ooc (c : ConfigChoice) (w : Word) : BitVec 6 :=
  match c with
  | .reference => ntz64 w
  | .uninterpreted => Config.ntz3Ooc w

/-- R103. -/
def ntz2_64 (c : ConfigChoice) (w : Word) : BitVec 6 := if ntz2Contract w then ntz64 w else ntz2Ooc c w

/-- R105. -/
def ntz3_64 (c : ConfigChoice) (w : Word) : BitVec 6 := if ntz3Contract w then ntz64 w else ntz3Ooc c w

/-- R101. -/
def execNtz (a b : Word) (start count : Word32) (s : State) : Host.Outcome State Fault Refusal :=
  scalarStep (encode (.ntz a b start count)) (placeCount (ntz64 (operand64 a))) s

/-- R103. -/
def execNtz2 (a b : Word) (start count : Word32) (s : State) : Host.Outcome State Fault Refusal :=
  scalarStep (encode (.ntz2 a b start count)) (placeCount (ntz2_64 s.config (operand64 a))) s

/-- R105. -/
def execNtz3 (a b : Word) (start count : Word32) (s : State) : Host.Outcome State Fault Refusal :=
  scalarStep (encode (.ntz3 a b start count)) (placeCount (ntz3_64 s.config (operand64 a))) s

end Sys2Proof.Machine
end

