-- ==== Sys2Proof/Machine/Dispatch.lean ====
section
/-! DEFINITION. The unit's next step on the operation of one instruction: ACCEPT in `IDLE`, READ in `BUSY`, DELIVER in
`DONE` (10_state.md R28 to R30). One arm per operation of 30_encoding.md R64. -/

namespace Sys2Proof.Machine

def exec (i : Instr) (s : State) : Host.Outcome State Fault Refusal :=
  match i with
  | .ispow2W a b start count => Sys2Proof.Machine.execIspow2W a b start count s
  | .ispow2D a b start count => Sys2Proof.Machine.execIspow2D a b start count s
  | .nxtpow2W a b start count => Sys2Proof.Machine.execNxtpow2W a b start count s
  | .nxtpow2D a b start count => Sys2Proof.Machine.execNxtpow2D a b start count s
  | .ntz a b start count => Sys2Proof.Machine.execNtz a b start count s
  | .ntz2 a b start count => Sys2Proof.Machine.execNtz2 a b start count s
  | .ntz3 a b start count => Sys2Proof.Machine.execNtz3 a b start count s
  | .poparr a b start count => Sys2Proof.Machine.execPoparr a b start count s
  | .popandn a b start count => Sys2Proof.Machine.execPopandn a b start count s
  | .popint a b start count => Sys2Proof.Machine.execPopint a b start count s
  | .popuni a b start count => Sys2Proof.Machine.execPopuni a b start count s
  | .popxor a b start count => Sys2Proof.Machine.execPopxor a b start count s

end Sys2Proof.Machine
end

