-- ==== Sys2Proof/Machine/Unit.lean ====
section
/-! DEFINITION. What one step of the whole machine does: the unit's step in its phase (10_state.md R28 to R30), or one
action of the agents around it (R26). Step.lean only calls these. -/

namespace Sys2Proof.Machine

/-- The unit's step. In `IDLE` it accepts the oldest request offered, and with none offered it waits (R31); in `BUSY`
it reads for the request it holds (R29); in `DONE` it delivers (R30). While it is not `IDLE` no request is taken from
the REQ channel (R28, R173). -/
def unitStep (s : State) : Host.Outcome State Fault Refusal :=
  match s.phase with
  | .idle =>
    match s.reqs with
    | [] => .next s
    | r :: rest =>
      match decode r with
      | .ok i => exec i { s with reqs := rest }
      | .error _ => .next (acceptIllegal r { s with reqs := rest })
  | .busy =>
    match decode s.cur with
    | .ok i => exec i s
    | .error _ => .fault .busyWithoutReduction
  | .done => .next (deliver s)

/-- One action. Only the action itself happens: the unit's record changes by the unit's own step and by reset, and
by nothing else (R26: the requester cannot alter the operation in flight). -/
def eventStep (e : Event) (s : State) : Host.Outcome State Fault Refusal :=
  match e with
  | .unit => unitStep s
  | .offer r => .next { s with reqs := s.reqs ++ [r] }
  | .acceptResponses ready => .next { s with rspReady := ready }
  | .answerReads ready => .next { s with memReady := ready }
  | .memory wa answer => .next { s with mem := s.mem.answer wa answer }
  | .reset => .next (resetUnit s)

/-- The next action of the agenda, or the unit's step when nothing is listed (log entry 6). -/
def systemStep (s : State) : Host.Outcome State Fault Refusal :=
  match s.agenda with
  | [] => unitStep s
  | e :: rest => eventStep e { s with agenda := rest }

/-- `s` with the packet `r` as the oldest request offered, the unit `IDLE` and its turn next, so that the very next
step accepts `r`. -/
def offerFirst (r : Request) (s : State) : State :=
  { s with phase := .idle, reqs := r :: s.reqs, agenda := .unit :: s.agenda }

end Sys2Proof.Machine
end

