-- ==== Sys2Proof/Machine/Step.lean ====
section
/-! DEFINITION. One step of the machine, and the placing of an instruction where the next step takes it. -/

namespace Sys2Proof.Machine

/-- One step: the next listed action, or the unit's own step (Unit.lean). -/
def step (s : State) : Host.Outcome State Fault Refusal := systemStep s

/-- `s` with the instruction of a table word offered so that the very next step accepts it. The unit fetches nothing
from memory: a program is the sequence of requests offered on the REQ channel (R22, R56; log entry 8). -/
def State.withFetchWord (s : State) (nbits w : Nat) : State := offerFirst (packetOfTableWord nbits w) s

end Sys2Proof.Machine
end

