-- ==== Sys2Proof/Machine/Assembler.lean ====
section
/-! DEFINITION. The textual form of a request and its aliases (30_encoding.md R68, R69). The assembler stands beside the
machine: it makes the packets a requester offers, and no step uses it. What R68 leaves open (spaces, case, numbers too
large for their field) is in log entry 10. -/

namespace Sys2Proof.Machine.Asm

/-! ### Characters and pieces of a line -/

/-- A space or a tab. -/
def isBlank (c : Char) : Bool := c == ' ' || c == '\t' || c == '\r'

/-- R68: mnemonics are upper or lower case. -/
def upper (c : Char) : Char := if 97 ≤ c.toNat ∧ c.toNat ≤ 122 then Char.ofNat (c.toNat - 32) else c

/-- A piece of a line without the spaces around it. -/
def trim (cs : List Char) : List Char :=
  ((cs.dropWhile isBlank).reverse.dropWhile isBlank).reverse

/-- The pieces between separators. -/
def splitOn (sep : Char) : List Char → List (List Char)
  | [] => [[]]
  | c :: cs =>
    match splitOn sep cs with
    | [] => [[c]]
    | piece :: rest => if c = sep then [] :: piece :: rest else (c :: piece) :: rest

/-- R68: a `#` starts a comment that runs to the end of the line. -/
def stripComment (cs : List Char) : List Char := cs.takeWhile (· ≠ '#')

/-- R68: what stands before `=>`, and what stands after it if it is there. -/
def splitArrow : List Char → List Char × Option (List Char)
  | [] => ([], none)
  | '=' :: '>' :: rest => ([], some rest)
  | c :: cs => match splitArrow cs with | (before, after) => (c :: before, after)

/-! ### Numbers (R68) -/

/-- The value of a digit in base 10 or 16. -/
def digit? (base : Nat) (c : Char) : Option Nat :=
  let n := c.toNat
  let v :=
    if 48 ≤ n ∧ n ≤ 57 then n - 48
    else if 97 ≤ n ∧ n ≤ 102 then n - 87
    else if 65 ≤ n ∧ n ≤ 70 then n - 55
    else 99
  if v < base then some v else none

/-- Digits with underscores between them; `afterDigit` says that the character before was a digit. -/
def digits (base : Nat) : List Char → Bool → Nat → Option Nat
  | [], afterDigit, v => if afterDigit then some v else none
  | '_' :: cs, afterDigit, v => if afterDigit then digits base cs false v else none
  | c :: cs, _, v =>
    match digit? base c with
    | some d => digits base cs true (v * base + d)
    | none => none

/-- Decimal, or hexadecimal with a `0x` before it. -/
def natural (cs : List Char) : Option Nat :=
  match cs with
  | '0' :: 'x' :: hex => digits 16 hex false 0
  | dec => digits 10 dec false 0

/-- A number that fits `w` bits unsigned. -/
def unsignedField (w : Nat) (cs : List Char) : Option (BitVec w) :=
  match natural cs with
  | some n => if n < 2 ^ w then some (BitVec.ofNat w n) else none
  | none => none

/-- R68: the operand of a scalar operation of width `w`; a negative decimal stands for its two's-complement pattern at
that width. -/
def scalarOperand (w : Nat) (cs : List Char) : Option (BitVec w) :=
  match cs with
  | '-' :: dec =>
    match digits 10 dec false 0 with
    | some n => if n ≤ 2 ^ (w - 1) then some (BitVec.ofInt w (-(n : Int))) else none
    | none => none
  | other => unsignedField w other

/-! ### One request (R68, R69) -/

/-- A scalar request: the fields its class ignores are zero. -/
def scalar (w : Nat) (make : Word → Word → Word32 → Word32 → Instr) (operands : List (List Char)) : Option Instr :=
  match operands with
  | [x] => (scalarOperand w x).map fun v => make (v.setWidth 64) 0#64 0#32 0#32
  | _ => none

/-- `POPARR <baseA>, <start>, <count>`. -/
def single (operands : List (List Char)) : Option Instr :=
  match operands with
  | [baseA, start, count] =>
    match unsignedField 64 baseA, unsignedField 32 start, unsignedField 32 count with
    | some a, some st, some n => some (.poparr a 0#64 st n)
    | _, _, _ => none
  | _ => none

/-- `<pairwise mnemonic> <baseA>, <baseB>, <start>, <count>`. -/
def pair (make : Word → Word → Word32 → Word32 → Instr) (operands : List (List Char)) : Option Instr :=
  match operands with
  | [baseA, baseB, start, count] =>
    match unsignedField 64 baseA, unsignedField 64 baseB, unsignedField 32 start, unsignedField 32 count with
    | some a, some b, some st, some n => some (make a b st n)
    | _, _, _, _ => none
  | _ => none

/-- R69: `POPCOUNT <baseA>` is `POPARR <baseA>, 0, 1`. -/
def popcountRequest (operands : List (List Char)) : Option Instr :=
  match operands with
  | [baseA] => (unsignedField 64 baseA).map fun a => .poparr a 0#64 0#32 1#32
  | _ => none

/-- The request a mnemonic and its operands stand for. -/
def request (mnemonic : List Char) (operands : List (List Char)) : Option Instr :=
  let m := mnemonic.map upper
  if m = "ISPOW2.W".toList then scalar 32 .ispow2W operands
  else if m = "ISPOW2.D".toList then scalar 64 .ispow2D operands
  else if m = "NXTPOW2.W".toList then scalar 32 .nxtpow2W operands
  else if m = "NXTPOW2.D".toList then scalar 64 .nxtpow2D operands
  else if m = "NTZ".toList then scalar 64 .ntz operands
  else if m = "CTZ".toList then scalar 64 .ntz operands
  else if m = "NTZ2".toList then scalar 64 .ntz2 operands
  else if m = "NTZ3".toList then scalar 64 .ntz3 operands
  else if m = "POPARR".toList then single operands
  else if m = "POPCOUNT".toList then popcountRequest operands
  else if m = "POPANDN".toList then pair .popandn operands
  else if m = "POPINT".toList then pair .popint operands
  else if m = "POPUNI".toList then pair .popuni operands
  else if m = "POPXOR".toList then pair .popxor operands
  else none

/-- R68: the response an annotation after `=>` expects: `ILLEGAL`, `FAULT(wa)`, or a value. It produces no bits. -/
def expected (cs : List Char) : Option Response :=
  if cs = "ILLEGAL".toList then some (responseOf statusIllegalOp 0#64)
  else
    match cs with
    | 'F' :: 'A' :: 'U' :: 'L' :: 'T' :: '(' :: rest =>
      match rest.reverse with
      | ')' :: wa => (unsignedField 64 wa.reverse).map fun v => responseOf statusAccessFault v
      | _ => none
    | _ => (unsignedField 64 cs).map fun v => responseOf statusOk v

/-- One line: the packet, and the response its annotation expects, if it has one. -/
structure Line where
  request : Request
  expected : Option Response
  deriving DecidableEq, Repr

/-- R68: one request per line. `none` is a line the syntax does not allow. -/
def line (cs : List Char) : Option Line :=
  match splitArrow (stripComment cs) with
  | (text, after) =>
    let body := trim text
    let mnemonic := body.takeWhile fun c => !isBlank c
    let operands := (splitOn ',' (body.dropWhile fun c => !isBlank c)).map trim
    match request mnemonic operands with
    | none => none
    | some i =>
      match after with
      | none => some ⟨encode i, none⟩
      | some e => (expected (trim e)).map fun r => ⟨encode i, some r⟩

/-- A text of several lines; a line with nothing on it but spaces and a comment is skipped. -/
def text (cs : List Char) : Option (List Line) :=
  ((splitOn '\n' cs).filter fun l => trim (stripComment l) ≠ []).mapM line

end Sys2Proof.Machine.Asm
end

