-- ==== Sys2Proof/WellFormed.lean ====
section
/-! DEFINITION. Well-formedness. The one check the spec makes on a request is the opcode (30_encoding.md R66): every
other field is used whole at its own width and any value of it is accepted (R65), which the field types of `Instr`
already say. So the check is on a packet's opcode, and an `Instr` passes it because each constructor's opcode is in
the table. -/

namespace Sys2Proof

/-- R64, R66: the opcode is one of the twelve. -/
def legalOpcode (op : Byte) : Bool := legalOpcodes.contains op

/-- A packet that is a legal request (R66). Nothing but `op` is looked at (R65, R153). -/
def Request.wellFormed (r : Request) : Bool := legalOpcode r.op

/-- An instruction whose opcode is one of the twelve. -/
def Instr.wellFormed (i : Instr) : Bool := legalOpcode i.opcode

end Sys2Proof
end

