-- ==== Sys2Proof/Safety.lean ====
section
/-! DEFINITION. The terms the claims use: the operation table of 30_encoding.md R71 and the steps of 10_state.md R28 and
R29 written a second time straight from the spec's pseudocode, the response a request is owed (20_memory.md R41,
42_popcount_reductions.md R122), the invariant of the unit's record, and when two states look the same to every
rule (R27). Nothing here is used by the machine. -/

namespace Sys2Proof.Machine

/-! ### The operation table (R71) -/

/-- R71: what an opcode selects. -/
inductive Operation where
  | illegal
  | scalar (f : Word → Word)
  | reduction (g : Word → Word → Word) (pairwise : Bool)

/-- R71, line by line; `c` says which configuration functions the machine has (R6). -/
def operationOf (c : ConfigChoice) (op : Byte) : Operation :=
  if op = 0x01#8 then .scalar fun x => placeBool (ispow2 (operand32 x))
  else if op = 0x02#8 then .scalar fun x => placeBool (ispow2 x)
  else if op = 0x03#8 then .scalar fun x => place32 (nxtpow2_32 c (operand32 x))
  else if op = 0x04#8 then .scalar fun x => nxtpow2_64 c x
  else if op = 0x08#8 then .scalar fun x => placeCount (ntz64 x)
  else if op = 0x09#8 then .scalar fun x => placeCount (ntz2_64 c x)
  else if op = 0x0A#8 then .scalar fun x => placeCount (ntz3_64 c x)
  else if op = 0x10#8 then .reduction combineArr false
  else if op = 0x11#8 then .reduction combineAndn true
  else if op = 0x12#8 then .reduction combineInt true
  else if op = 0x13#8 then .reduction combineUni true
  else if op = 0x14#8 then .reduction combineXor true
  else .illegal

/-- The combine and the pairwise mark of a reduction (R121), none for a scalar operation. -/
def reductionOf : Instr → Option ((Word → Word → Word) × Bool)
  | .poparr .. => some (combineArr, false)
  | .popandn .. => some (combineAndn, true)
  | .popint .. => some (combineInt, true)
  | .popuni .. => some (combineUni, true)
  | .popxor .. => some (combineXor, true)
  | .ispow2W .. | .ispow2D .. | .nxtpow2W .. | .nxtpow2D .. | .ntz .. | .ntz2 .. | .ntz3 .. => none

/-- The result of a scalar operation (R71), none for a reduction. -/
def scalarOf (c : ConfigChoice) : Instr → Option Word
  | .ispow2W a _ _ _ => some (placeBool (ispow2 (operand32 a)))
  | .ispow2D a _ _ _ => some (placeBool (ispow2 a))
  | .nxtpow2W a _ _ _ => some (place32 (nxtpow2_32 c (operand32 a)))
  | .nxtpow2D a _ _ _ => some (nxtpow2_64 c a)
  | .ntz a _ _ _ => some (placeCount (ntz64 a))
  | .ntz2 a _ _ _ => some (placeCount (ntz2_64 c a))
  | .ntz3 a _ _ _ => some (placeCount (ntz3_64 c a))
  | .poparr .. | .popandn .. | .popint .. | .popuni .. | .popxor .. => none

/-- The instruction is a pairwise reduction (R10, R121). -/
def pairwiseInstr (i : Instr) : Bool :=
  match reductionOf i with
  | some (_, p) => p
  | none => false

/-- The instruction is a reduction (R10). -/
def isReduction (i : Instr) : Bool := (reductionOf i).isSome

/-! ### The steps as R28 and R29 write them -/

/-- R28, from the offered packet `r`. -/
def specAccept (r : Request) (s : State) : State :=
  match operationOf s.config r.op with
  | .illegal => { s with cur := r, out := responseOf 2#8 0#64, phase := .done }
  | .scalar f => { s with cur := r, out := responseOf 0#8 (f r.a), phase := .done }
  | .reduction _ _ =>
    if r.count.toNat = 0 then { s with cur := r, out := responseOf 0#8 0#64, phase := .done }
    else { s with cur := r, i := 0#33, sel := .a, acc := 0#64, phase := .busy }

/-- R29, for the request in `cur`: the address of the next read. -/
def specReadAddress (s : State) : Word :=
  (if s.sel = .a then s.cur.a else s.cur.b) + s.cur.start.setWidth 64 + s.i.setWidth 64

/-- R29, for the combine `g` and pairwise mark `p` of `cur`, where the platform answers. -/
def specRead (g : Word → Word → Word) (p : Bool) (s : State) : State :=
  let wa := specReadAddress s
  let s := { s with reads := s.reads ++ [wa] }
  match s.mem.word? wa with
  | none => { s with out := responseOf 1#8 wa, phase := .done }
  | some d =>
    if s.sel = .a ∧ p = true then { s with waReg := d, sel := .b }
    else
      let e := if p then g s.waReg d else g d 0#64
      let acc := s.acc + BitVec.ofNat 64 (popcount e)
      let i := s.i + 1#33
      if i.toNat = s.cur.count.toNat then
        { s with acc := acc, i := i, sel := .a, out := responseOf 0#8 acc, phase := .done }
      else { s with acc := acc, i := i, sel := .a }

/-! ### The response a request is owed -/

/-- R122, the loop: the response once elements `j, j+1, ..., j+n-1` are still to be read and `acc` is the total of
those before. The first read that answers `Err` ends it with that address (R151). -/
def reduceFrom (m : Memory) (g : Word → Word → Word) (p : Bool) (a b : Word) (start : Word32) :
    Nat → Nat → Word → Response
  | 0, _, acc => responseOf statusOk acc
  | n + 1, j, acc =>
    match memRead m (elementAddress a start j) with
    | .err => responseOf statusAccessFault (elementAddress a start j)
    | .data x =>
      if p then
        match memRead m (elementAddress b start j) with
        | .err => responseOf statusAccessFault (elementAddress b start j)
        | .data y => reduceFrom m g p a b start n (j + 1) (acc + BitVec.ofNat 64 (popcount (g x y)))
      else reduceFrom m g p a b start n (j + 1) (acc + BitVec.ofNat 64 (popcount (g x 0#64)))

/-- R20, R122: the response to a packet is a function of the packet and of what memory answers, and of nothing else. -/
def responseTo (c : ConfigChoice) (m : Memory) (r : Request) : Response :=
  match operationOf c r.op with
  | .illegal => responseOf statusIllegalOp 0#64
  | .scalar f => responseOf statusOk (f r.a)
  | .reduction g p => reduceFrom m g p r.a r.b r.start r.count.toNat 0 0#64

/-- R122: `sum for j = 0 to n-1 of popcount64(g(x_j, y_j))`. -/
def windowTotal (g : Word → Word → Word) (x y : Nat → Word) (n : Nat) : Nat :=
  ((List.range n).map fun j => popcount (g (x j) (y j))).sum

/-- R47: the reads of a window of `n` elements, in order. -/
def windowReads (p : Bool) (a b : Word) (start : Word32) (n : Nat) : List Word :=
  (List.range n).flatMap fun j =>
    if p then [elementAddress a start j, elementAddress b start j] else [elementAddress a start j]

/-- R43: `wa` is a window address of the request in packet `r`: of array A, or of array B for a pairwise reduction. -/
def inWindow (r : Request) (wa : Word) : Prop :=
  ∃ i, decode r = .ok i ∧ isReduction i = true ∧ ∃ j < i.count.toNat,
    wa = elementAddress i.a i.start j ∨ (pairwiseInstr i = true ∧ wa = elementAddress i.b i.start j)

/-- R53, R178: no other agent is about to act, and the platform answers reads. -/
def Quiet (s : State) : Prop := s.agenda = [] ∧ s.memReady = true

/-- It is the unit's turn in `s`, and `s₀` is `s` once the turn is taken off the agenda: nothing is listed, or a turn of
the unit is listed first. -/
def UnitTurn (s s₀ : State) : Prop :=
  (s.agenda = [] ∧ s₀ = s) ∨ ∃ rest, s.agenda = .unit :: rest ∧ s₀ = { s with agenda := rest }

/-- `s` after a scalar request, or a reduction over an empty window, is accepted and answered with `value` and
status 0: the packet is captured, the response waits, and nothing else changes (R28). -/
def answered (i : Instr) (value : Word) (s : State) : State :=
  { s with cur := encode i, out := responseOf 0#8 value, phase := .done }

/-- `s` after element `i` of a reduction is counted with `ones` set bits: the total and the index move on, array A is
next, and after the last of the `count` elements the total is the response (R29). -/
def counted (ones : Nat) (count : Word32) (s : State) : State :=
  if (s.i + 1#33).toNat = count.toNat then
    { s with
      acc := s.acc + BitVec.ofNat 64 ones, i := s.i + 1#33, sel := .a,
      out := responseOf 0#8 (s.acc + BitVec.ofNat 64 ones), phase := .done }
  else { s with acc := s.acc + BitVec.ofNat 64 ones, i := s.i + 1#33, sel := .a }

/-- `s` after a read of `wa` has gone out on the MEM channel (R26). -/
def sent (wa : Word) (s : State) : State := { s with reads := s.reads ++ [wa] }

/-- R100: `n` is the trailing-zero count of `w`: 0 for the all-zero word, otherwise the index of its lowest set bit. -/
def IsTrailingZeroCount (w : Word) (n : Nat) : Prop :=
  (w = 0#64 → n = 0) ∧ (w ≠ 0#64 → n < 64 ∧ w.getLsbD n = true ∧ ∀ j < n, w.getLsbD j = false)

/-- R102 `SINGLE`: `2^k` for `0 <= k <= 63`. -/
def IsSingleBit (w : Word) : Prop := ∃ k < 64, w = BitVec.twoPow 64 k

/-! ### The invariant -/

/-- R27: what holds of the record in phase `BUSY`. -/
def BusyInv (s : State) : Prop :=
  ∃ i, decode s.cur = .ok i ∧ isReduction i = true ∧ s.i.toNat < i.count.toNat ∧
    (s.sel = .b → pairwiseInstr i = true) ∧ s.acc.toNat ≤ 64 * s.i.toNat

/-- R150: what holds of the waiting response in phase `DONE`, by the request it answers. -/
def DoneInv (s : State) : Prop :=
  match decode s.cur with
  | .error _ => s.out = responseOf statusIllegalOp 0#64
  | .ok i =>
    match scalarOf s.config i with
    | some v => s.out = responseOf statusOk v
    | none =>
      (responseStatus s.out = statusOk ∧ (responseValue s.out).toNat ≤ 64 * i.count.toNat) ∨
        (responseStatus s.out = statusAccessFault ∧ inWindow s.cur (responseValue s.out))

/-- The invariant of the machine: memory is in its canonical form, the record means what R27 says in its phase, and
every response delivered so far has one of the three status codes (R150). -/
structure Inv (s : State) : Prop where
  mem : s.mem.wf
  busy : s.phase = .busy → BusyInv s
  done : s.phase = .done → DoneInv s
  rsps : ∀ r ∈ s.rsps, (responseStatus r).toNat ≤ 2

/-! ### What a rule can see of the record -/

/-- R27: the two states agree on everything but the fields of the record that are not valid in their phase. -/
structure Agree (s t : State) : Prop where
  phase : s.phase = t.phase
  cur : s.phase ≠ .idle → s.cur = t.cur
  i : s.phase = .busy → s.i = t.i
  sel : s.phase = .busy → s.sel = t.sel
  waReg : s.phase = .busy → s.sel = .b → s.waReg = t.waReg
  acc : s.phase = .busy → s.acc = t.acc
  out : s.phase = .done → s.out = t.out
  reqs : s.reqs = t.reqs
  rsps : s.rsps = t.rsps
  reads : s.reads = t.reads
  rspReady : s.rspReady = t.rspReady
  memReady : s.memReady = t.memReady
  mem : s.mem = t.mem
  agenda : s.agenda = t.agenda
  config : s.config = t.config

end Sys2Proof.Machine
end

