-- ==== Sys2Proof/Certificates/Slice0/Obligations.lean ====
section
/-! DEFINITION. The statements for the provers. Each docstring names the rule of spec/ it formalises, or says that it
rests on a choice of the model and names the log entry. -/

open Sys2Proof Sys2Proof.Machine

/-! ## Packets and decoding (30_encoding.md) -/

/-- R28, R29: on the unit's turn the step is `exec` of the instruction the packet decodes to, on the state with that
packet taken off the REQ channel (`IDLE`), or on the state as it is (`BUSY`, `DONE`). -/
def Obligations.StepRunsTheDecodedInstruction : Prop :=
  ∀ (s s₀ : State) (i : Instr), UnitTurn s s₀ →
    (∀ r rest, s.phase = .idle → s.reqs = r :: rest → decode r = .ok i → step s = exec i { s₀ with reqs := rest }) ∧
      (s.phase ≠ .idle → decode s.cur = .ok i → step s = exec i s₀)

/-- The placing of an instruction (log entry 8): the very next step accepts exactly it. -/
def Obligations.FetchWordRunsFirst : Prop :=
  ∀ (s : State) (nbits w : Nat) (i : Instr), decodeTableWord nbits w = some i →
    step (s.withFetchWord nbits w) = exec i { s with phase := .idle }

/-- Packets of 95_test_vectors.md section 2.6, one of each family, decode to the requests they stand for, and
a packet whose opcode is in no row is refused. -/
def Obligations.SampleWordsDecode : Prop :=
  decode 0x00000000000000000000000000000000FFFFFFFF0000000401#200
      = .ok (.ispow2W 0xFFFFFFFF00000004#64 0#64 0#32 0#32) ∧
    decode 0x00000000000000000000000000000000000000000000000504#200 = .ok (.nxtpow2D 5#64 0#64 0#32 0#32) ∧
    decode 0xFFFFFFFFFFFFFFFFFFFFFFFFFFFFFFFF000000000000002808#200
      = .ok (.ntz 40#64 0xFFFFFFFFFFFFFFFF#64 0xFFFFFFFF#32 0xFFFFFFFF#32) ∧
    decode 0x00000009000000010000000000002000000000000000100012#200
      = .ok (.popint 0x1000#64 0x2000#64 1#32 9#32) ∧
    decode 0x00000000000000000000000000000000000000000000123405#200 = .error (.illegalOpcode 5#8)

/-- R60, R64: every request of the opcode table, with every value of every field, decodes from its packet to
itself. -/
def Obligations.DecodeOfEncode : Prop :=
  ∀ i : Instr, i.wellFormed = true ∧ decode (encode i) = .ok i

/-- R60, R71: a packet that decodes is the packet of what it decodes to, so no bit of it is dropped. -/
def Obligations.EncodeOfDecode : Prop :=
  ∀ (r : Request) (i : Instr), decode r = .ok i → encode i = r

/-- R60: the packet as one number, and each field read back from its place. -/
def Obligations.RequestPacketAsNumber : Prop :=
  ∀ (op : Byte) (a b : Word) (start count : Word32),
    (Request.pack op a b start count).toNat =
        op.toNat + a.toNat * 2 ^ 8 + b.toNat * 2 ^ 72 + start.toNat * 2 ^ 136 + count.toNat * 2 ^ 168 ∧
      (Request.pack op a b start count).op = op ∧ (Request.pack op a b start count).a = a ∧
      (Request.pack op a b start count).b = b ∧ (Request.pack op a b start count).start = start ∧
      (Request.pack op a b start count).count = count

/-- R61: the response as one number, and both fields read back from their places. -/
def Obligations.ResponsePacketAsNumber : Prop :=
  ∀ (status : Byte) (value : Word),
    (responseOf status value).toNat = status.toNat + value.toNat * 2 ^ 8 ∧
      responseStatus (responseOf status value) = status ∧ responseValue (responseOf status value) = value

/-- R66: exactly the 244 opcodes outside the table are illegal, and such a packet is accepted on the unit's turn,
performs no read and is answered with status 2 and value 0; the all-zero packet is one of them. -/
def Obligations.IllegalOpcodes : Prop :=
  (∀ r : Request, decode r = .error (.illegalOpcode r.op) ↔
      (r.op.toNat = 0 ∨ (5 ≤ r.op.toNat ∧ r.op.toNat ≤ 7) ∨ (0x0B ≤ r.op.toNat ∧ r.op.toNat ≤ 0x0F) ∨
        0x15 ≤ r.op.toNat)) ∧
    ((List.range 256).filter fun n => !legalOpcode (BitVec.ofNat 8 n)).length = 244 ∧
    decode 0#200 = .error (.illegalOpcode 0#8) ∧
    ∀ (s s₀ : State) (r : Request) (rest : List Request), UnitTurn s s₀ → s.phase = .idle → s.reqs = r :: rest →
      legalOpcode r.op = false →
      step s = .next { s₀ with reqs := rest, cur := r, out := responseOf 2#8 0#64, phase := .done }

/-- R71: the decoder of packets and the spec's table of what each opcode selects say the same. -/
def Obligations.OperationTableAgrees : Prop :=
  ∀ (c : ConfigChoice) (r : Request),
    match decode r with
    | .error _ => operationOf c r.op = .illegal
    | .ok i =>
      (∃ f, operationOf c r.op = .scalar f ∧ scalarOf c i = some (f r.a) ∧ reductionOf i = none) ∨
        (∃ g p, operationOf c r.op = .reduction g p ∧ reductionOf i = some (g, p) ∧ scalarOf c i = none)

/-- R28, R29: the machine's ACCEPT and READ are the steps of the spec's pseudocode. -/
def Obligations.StepsRefineThePseudocode : Prop :=
  ∀ s : State,
    (∀ r rest, s.phase = .idle → s.reqs = r :: rest → unitStep s = .next (specAccept r { s with reqs := rest })) ∧
      (∀ g p, s.phase = .busy → s.memReady = true → operationOf s.config s.cur.op = .reduction g p →
        unitStep s = .next (specRead g p s))

/-! ## Power-of-two operations (40_power_of_two.md) -/

/-- R81: `ISPOW2.W` is opcode `0x01`; on every operand it answers 1 when `a[31:0]` is `2^k` with `k <= 30`, and 0
otherwise; status 0; nothing but the packet, the response and the phase changes. -/
def Obligations.Ispow2WResult : Prop :=
  ∀ (s : State) (a b : Word) (start count : Word32), s.phase = .idle →
    decode (Request.pack 0x01#8 a b start count) = .ok (.ispow2W a b start count) ∧
    exec (.ispow2W a b start count) s = .next (answered (.ispow2W a b start count)
      (if ∃ k ∈ List.range 31, a.extractLsb' 0 32 = BitVec.twoPow 32 k then 1#64 else 0#64) s)

/-- R82: `ISPOW2.D` is opcode `0x02`; on every operand it answers 1 when `a` is `2^k` with `k <= 62`, and 0 otherwise. -/
def Obligations.Ispow2DResult : Prop :=
  ∀ (s : State) (a b : Word) (start count : Word32), s.phase = .idle →
    decode (Request.pack 0x02#8 a b start count) = .ok (.ispow2D a b start count) ∧
    exec (.ispow2D a b start count) s = .next (answered (.ispow2D a b start count)
      (if ∃ k ∈ List.range 63, a = BitVec.twoPow 64 k then 1#64 else 0#64) s)

/-- R86: `NXTPOW2.W` is opcode `0x03`; on every operand: for a nonnegative `x = a[31:0]` the value is 0 for 0 and the
smallest power of two at or above `x` otherwise, zero-extended; for a negative `x` it is the configuration function's,
which under the reference instance (R88 item 4) is `2^31` for the minimum value and 0 for every other. -/
def Obligations.Nxtpow2WResult : Prop :=
  ∀ (s : State) (a b : Word) (start count : Word32), s.phase = .idle →
    decode (Request.pack 0x03#8 a b start count) = .ok (.nxtpow2W a b start count) ∧
    exec (.nxtpow2W a b start count) s = .next (answered (.nxtpow2W a b start count)
      (if a.getLsbD 31 = true then (nhp2Neg32 s.config (a.extractLsb' 0 32)).setWidth 64
       else if a.extractLsb' 0 32 = 0#32 then 0#64
       else BitVec.ofNat 64 (2 ^ Nat.clog 2 (a.extractLsb' 0 32).toNat)) s) ∧
    (s.config = .reference → a.getLsbD 31 = true → nhp2Neg32 s.config (a.extractLsb' 0 32) =
      if a.extractLsb' 0 32 = 0x80000000#32 then 0x80000000#32 else 0#32)

/-- R87: `NXTPOW2.D` is opcode `0x04`; on every operand, as `NXTPOW2.W` with the whole of `a`. -/
def Obligations.Nxtpow2DResult : Prop :=
  ∀ (s : State) (a b : Word) (start count : Word32), s.phase = .idle →
    decode (Request.pack 0x04#8 a b start count) = .ok (.nxtpow2D a b start count) ∧
    exec (.nxtpow2D a b start count) s = .next (answered (.nxtpow2D a b start count)
      (if a.getLsbD 63 = true then nhp2Neg64 s.config a
       else if a = 0#64 then 0#64
       else BitVec.ofNat 64 (2 ^ Nat.clog 2 a.toNat)) s) ∧
    (s.config = .reference → a.getLsbD 63 = true →
      nhp2Neg64 s.config a = if a = 0x8000000000000000#64 then 0x8000000000000000#64 else 0#64)

/-- R80: the equivalent form with wrap-around arithmetic, at both widths. -/
def Obligations.Ispow2EquivalentForm : Prop :=
  (∀ x : Word32, ispow2 x = true ↔ (x.getLsbD 31 = false ∧ x ≠ 0#32 ∧ x &&& (x - 1#32) = 0#32)) ∧
    ∀ x : Word, ispow2 x = true ↔ (x.getLsbD 63 = false ∧ x ≠ 0#64 ∧ x &&& (x - 1#64) = 0#64)

/-- R84: the closed form of the fill, at both widths: 0 for 0, and `2^(h+1) - 1` for the highest set bit `h`. -/
def Obligations.FillClosedForm : Prop :=
  (fill32 0#32 = 0#32 ∧ fill64 0#64 = 0#64) ∧
    (∀ (v : Word32) (h : Nat), v.getLsbD h = true → (∀ j, h < j → v.getLsbD j = false) →
      (fill32 v).toNat = 2 ^ (h + 1) - 1) ∧
    ∀ (v : Word) (h : Nat), v.getLsbD h = true → (∀ j, h < j → v.getLsbD j = false) →
      (fill64 v).toNat = 2 ^ (h + 1) - 1

/-- The table of R85: the values of `nhp2_W` by range of the operand, at both widths. -/
def Obligations.Nhp2ByRange : Prop :=
  (∀ x : Word32,
      (x.toNat = 0 → nhp2_32 x = 0#32) ∧
      (1 ≤ x.toNat → x.toNat ≤ 2 ^ 31 → (nhp2_32 x).toNat = 2 ^ Nat.clog 2 x.toNat) ∧
      (2 ^ 31 < x.toNat → nhp2_32 x = 0#32)) ∧
    ∀ x : Word,
      (x.toNat = 0 → nhp2_64 x = 0#64) ∧
      (1 ≤ x.toNat → x.toNat ≤ 2 ^ 63 → (nhp2_64 x).toNat = 2 ^ Nat.clog 2 x.toNat) ∧
      (2 ^ 63 < x.toNat → nhp2_64 x = 0#64)

/-- R89: for `1 <= s(x) <= 2^(W-2)` the answer of `NXTPOW2` is a power of two at or above the operand that passes
`ISPOW2`, and a power of two is its own answer; for 0 and for `s(x) > 2^(W-2)` the answer does not pass. For every
choice of the configuration functions. -/
def Obligations.RoundingMeetsTheTest : Prop :=
  (∀ (c : ConfigChoice) (x : Word32),
      (1 ≤ x.toInt → x.toInt ≤ 2 ^ 30 →
        ispow2 (nxtpow2_32 c x) = true ∧ x.toInt ≤ (nxtpow2_32 c x).toInt ∧
          (∀ y : Word32, ispow2 y = true → x.toInt ≤ y.toInt → (nxtpow2_32 c x).toInt ≤ y.toInt)) ∧
      (ispow2 x = true → nxtpow2_32 c x = x) ∧
      ((x = 0#32 ∨ 2 ^ 30 < x.toInt) → ispow2 (nxtpow2_32 c x) = false)) ∧
    ∀ (c : ConfigChoice) (x : Word),
      (1 ≤ x.toInt → x.toInt ≤ 2 ^ 62 →
        ispow2 (nxtpow2_64 c x) = true ∧ x.toInt ≤ (nxtpow2_64 c x).toInt ∧
          (∀ y : Word, ispow2 y = true → x.toInt ≤ y.toInt → (nxtpow2_64 c x).toInt ≤ y.toInt)) ∧
      (ispow2 x = true → nxtpow2_64 c x = x) ∧
      ((x = 0#64 ∨ 2 ^ 62 < x.toInt) → ispow2 (nxtpow2_64 c x) = false)

/-! ## Trailing-zero counts (41_trailing_zero_count.md) -/

/-- R101: `NTZ` is opcode `0x08`; on every operand it answers the index of the lowest set bit, 0 for the all-zero word, with status 0. -/
def Obligations.NtzResult : Prop :=
  ∀ (s : State) (a b : Word) (start count : Word32), s.phase = .idle →
    decode (Request.pack 0x08#8 a b start count) = .ok (.ntz a b start count) ∧
    ∃ n, IsTrailingZeroCount a n ∧
      exec (.ntz a b start count) s = .next (answered (.ntz a b start count) (BitVec.ofNat 64 n) s)

/-- R103: `NTZ2` is opcode `0x09`; it answers the trailing-zero count on its contract set (zero, the single-bit words,
and the two literal operands of R102), and a count in 0 to 63 given by the configuration function outside it, which under
the reference instance is the trailing-zero count there too; the status is always 0. -/
def Obligations.Ntz2Result : Prop :=
  ∀ (s : State) (a b : Word) (start count : Word32), s.phase = .idle →
    decode (Request.pack 0x09#8 a b start count) = .ok (.ntz2 a b start count) ∧
    ∃ n < 64,
      exec (.ntz2 a b start count) s = .next (answered (.ntz2 a b start count) (BitVec.ofNat 64 n) s) ∧
      (a = 0#64 ∨ IsSingleBit a ∨ a = 124555952128#64 ∨ a = 1376285#64 → IsTrailingZeroCount a n) ∧
      (¬(a = 0#64 ∨ IsSingleBit a ∨ a = 124555952128#64 ∨ a = 1376285#64) → n = (ntz2Ooc s.config a).toNat) ∧
      (s.config = .reference → IsTrailingZeroCount a n)

/-- R105: `NTZ3`, opcode `0x0A`: as `NTZ2`, but its contract set is zero and the single-bit words. -/
def Obligations.Ntz3Result : Prop :=
  ∀ (s : State) (a b : Word) (start count : Word32), s.phase = .idle →
    decode (Request.pack 0x0A#8 a b start count) = .ok (.ntz3 a b start count) ∧
    ∃ n < 64,
      exec (.ntz3 a b start count) s = .next (answered (.ntz3 a b start count) (BitVec.ofNat 64 n) s) ∧
      (a = 0#64 ∨ IsSingleBit a → IsTrailingZeroCount a n) ∧
      (¬(a = 0#64 ∨ IsSingleBit a) → n = (ntz3Ooc s.config a).toNat) ∧
      (s.config = .reference → IsTrailingZeroCount a n)

/-- R106: on the isolated lowest bit of any nonzero word, which is a single-bit word, all three operations answer the
trailing-zero count of the word, whatever the configuration functions are. -/
def Obligations.IsolatedLowBitAgreement : Prop :=
  ∀ (c : ConfigChoice) (w : Word), w ≠ 0#64 →
    IsSingleBit (w &&& (0#64 - w)) ∧ ntz64 (w &&& (0#64 - w)) = ntz64 w ∧
      ntz2_64 c (w &&& (0#64 - w)) = ntz64 w ∧ ntz3_64 c (w &&& (0#64 - w)) = ntz64 w

/-- R107: the source's properties: 0 for 0, the two checks on every nonzero word, agreement of the variants on
single-bit words, and the four literal cases, whatever the configuration functions are. -/
def Obligations.TrailingZeroProperties : Prop :=
  ntz64 0#64 = 0#6 ∧
    (∀ w : Word, w ≠ 0#64 →
      (w >>> (ntz64 w).toNat).getLsbD 0 = true ∧ w &&& ((1#64 <<< (ntz64 w).toNat) - 1#64) = 0#64) ∧
    (∀ (c : ConfigChoice) (w : Word), IsSingleBit w → ntz2_64 c w = ntz64 w ∧ ntz3_64 c w = ntz64 w) ∧
    ∀ c : ConfigChoice, ntz2_64 c 124555952128#64 = 16#6 ∧ ntz2_64 c 1376285#64 = 0#6 ∧
      ntz3_64 c 8#64 = 3#6 ∧ ntz3_64 c 4611686018427387904#64 = 62#6

/-- R65: the fields a class of operation ignores change nothing but the captured packet: not the response, not the
reads, not the status; and `POPARR` reads the same words and answers the same whatever `b` is. -/
def Obligations.IgnoredFieldsHaveNoEffect : Prop :=
  ∀ (c : ConfigChoice) (m : Memory) (a a' b b' : Word) (start start' count count' : Word32),
    (a.extractLsb' 0 32 = a'.extractLsb' 0 32 →
      responseTo c m (encode (.ispow2W a b start count)) = responseTo c m (encode (.ispow2W a' b' start' count')) ∧
      responseTo c m (encode (.nxtpow2W a b start count)) = responseTo c m (encode (.nxtpow2W a' b' start' count'))) ∧
    responseTo c m (encode (.ispow2D a b start count)) = responseTo c m (encode (.ispow2D a b' start' count')) ∧
    responseTo c m (encode (.nxtpow2D a b start count)) = responseTo c m (encode (.nxtpow2D a b' start' count')) ∧
    responseTo c m (encode (.ntz a b start count)) = responseTo c m (encode (.ntz a b' start' count')) ∧
    responseTo c m (encode (.ntz2 a b start count)) = responseTo c m (encode (.ntz2 a b' start' count')) ∧
    responseTo c m (encode (.ntz3 a b start count)) = responseTo c m (encode (.ntz3 a b' start' count')) ∧
    responseTo c m (encode (.poparr a b start count)) = responseTo c m (encode (.poparr a b' start count)) ∧
    windowReads false a b start count.toNat = windowReads false a b' start count.toNat

/-! ## Population-count reductions (42_popcount_reductions.md) -/

/-- R129: every reduction over an empty window answers 0 with status 0 in the one step, and sends no read, whatever its
bases, its start and memory are. -/
def Obligations.EmptyWindowAnswersZero : Prop :=
  ∀ (s : State) (i : Instr), isReduction i = true → i.count = 0#32 → s.phase = .idle →
    exec i s = .next (answered i 0#64 s)

/-- R28: a reduction over a window that is not empty is accepted and becomes `BUSY` at element 0, array A next, with a
total of 0; nothing is read yet. -/
def Obligations.ReductionStarts : Prop :=
  ∀ (s : State) (i : Instr), isReduction i = true → i.count ≠ 0#32 → s.phase = .idle →
    exec i s = .next { s with cur := encode i, i := 0#33, sel := .a, acc := 0#64, phase := .busy }

/-- R29, R124: a READ of `POPARR` that answers with data counts the word of array A; `b` is not read through. -/
def Obligations.PoparrCountsTheWord : Prop :=
  ∀ (s : State) (a b : Word) (start count : Word32) (d : Word),
    s.phase = .busy → s.memReady = true → s.sel = .a →
    s.mem.word? (elementAddress a start s.i.toNat) = some d →
    exec (.poparr a b start count) s =
      .next (counted (popcount d) count (sent (elementAddress a start s.i.toNat) s))

/-- R29, R125 to R128: the first READ of an element of a pairwise reduction takes the word of array A and turns to
array B. -/
def Obligations.PairwiseReadsArrayAFirst : Prop :=
  ∀ (s : State) (a b : Word) (start count : Word32) (d : Word) (i : Instr),
    i ∈ [.popandn a b start count, .popint a b start count, .popuni a b start count, .popxor a b start count] →
    s.phase = .busy → s.memReady = true → s.sel = .a →
    s.mem.word? (elementAddress a start s.i.toNat) = some d →
    exec i s = .next { sent (elementAddress a start s.i.toNat) s with waReg := d, sel := .b }

/-- R29, R121, R125 to R128: the second READ of an element takes the word `y` of array B and counts the set bits of
the combine of the held word `x` of array A with it: `x & ~y`, `x & y`, `x | y`, `x ^ y`. -/
def Obligations.PairwiseCountsTheCombine : Prop :=
  ∀ (s : State) (a b : Word) (start count : Word32) (y : Word),
    s.phase = .busy → s.memReady = true → s.sel = .b →
    s.mem.word? (elementAddress b start s.i.toNat) = some y →
    exec (.popandn a b start count) s =
        .next (counted (popcount (s.waReg &&& ~~~y)) count (sent (elementAddress b start s.i.toNat) s)) ∧
      exec (.popint a b start count) s =
        .next (counted (popcount (s.waReg &&& y)) count (sent (elementAddress b start s.i.toNat) s)) ∧
      exec (.popuni a b start count) s =
        .next (counted (popcount (s.waReg ||| y)) count (sent (elementAddress b start s.i.toNat) s)) ∧
      exec (.popxor a b start count) s =
        .next (counted (popcount (s.waReg ^^^ y)) count (sent (elementAddress b start s.i.toNat) s))

/-- R29, R151: a READ that answers `Err` ends any reduction with status 1 and the word address of that read; the
running total is in no field of the response. -/
def Obligations.FailedReadEndsTheReduction : Prop :=
  ∀ (s : State) (i : Instr), isReduction i = true → s.phase = .busy → s.memReady = true →
    s.mem.word? (elementAddress (if s.sel = .a then i.a else i.b) i.start s.i.toNat) = none →
    exec i s = .next
      { s with
        reads := s.reads ++ [elementAddress (if s.sel = .a then i.a else i.b) i.start s.i.toNat]
        out := responseOf 1#8 (elementAddress (if s.sel = .a then i.a else i.b) i.start s.i.toNat)
        phase := .done }

/-- R41: the address of window element `j` as a number: base, start and index added modulo `2^64`, so that a window
passing the top continues at word address 0; and the sum of start and index never wraps. -/
def Obligations.ElementAddressWraps : Prop :=
  ∀ (base : Word) (start : Word32) (j : Nat),
    (elementAddress base start j).toNat = (base.toNat + start.toNat + j) % 2 ^ 64 ∧
      ∀ count : Word32, j < count.toNat → start.toNat + j ≤ 2 ^ 33 - 3

/-- R122, R47, R178: from the acceptance of any reduction, with memory stable and every window read answered with
data, the unit needs exactly one step and then one for each window read; it reads each window address once, in
ascending element order and array A before array B; and the response is the total of R122 with status 0. -/
def Obligations.ReductionAnswersTheTotal : Prop :=
  ∀ (s : State) (i : Instr) (rest : List Request) (g : Word → Word → Word) (p : Bool) (x y : Nat → Word),
    Quiet s → s.phase = .idle → s.reqs = encode i :: rest → reductionOf i = some (g, p) →
    (∀ j < i.count.toNat, s.mem.word? (elementAddress i.a i.start j) = some (x j)) →
    (p = true → ∀ j < i.count.toNat, s.mem.word? (elementAddress i.b i.start j) = some (y j)) →
    (p = false → ∀ j, y j = 0#64) →
    (windowReads p i.a i.b i.start i.count.toNat).length = (if p then 2 * i.count.toNat else i.count.toNat) ∧
    ∃ t, Sys2Proof.core.run (1 + (windowReads p i.a i.b i.start i.count.toNat).length) s = .next t ∧
      t.phase = .done ∧ t.cur = encode i ∧
      t.out = responseOf 0#8 (BitVec.ofNat 64 (windowTotal g x y i.count.toNat)) ∧
      t.reads = s.reads ++ windowReads p i.a i.b i.start i.count.toNat ∧
      t.mem = s.mem ∧ t.reqs = rest ∧ t.rsps = s.rsps ∧ t.config = s.config ∧ Quiet t

/-- R151, R47: if the read number `k` of the window is the first, in read order, that answers `Err`, the operation
ends after exactly that read: status 1, the address of that read, and no later read is sent. -/
def Obligations.FirstFailingReadIsReported : Prop :=
  ∀ (s : State) (i : Instr) (rest : List Request) (g : Word → Word → Word) (p : Bool) (k : Nat) (wa : Word),
    Quiet s → s.phase = .idle → s.reqs = encode i :: rest → reductionOf i = some (g, p) →
    (windowReads p i.a i.b i.start i.count.toNat)[k]? = some wa → s.mem.word? wa = none →
    (∀ wa' ∈ (windowReads p i.a i.b i.start i.count.toNat).take k, s.mem.word? wa' ≠ none) →
    ∃ t, Sys2Proof.core.run (1 + (k + 1)) s = .next t ∧
      t.phase = .done ∧ t.cur = encode i ∧ t.out = responseOf 1#8 wa ∧
      t.reads = s.reads ++ (windowReads p i.a i.b i.start i.count.toNat).take (k + 1) ∧
      t.mem = s.mem ∧ t.reqs = rest ∧ t.rsps = s.rsps

/-- R20, R122: every packet offered to an idle unit in a quiet system is answered, within `1 + 2 * count` steps, with the
response that the packet and memory alone determine; memory, the other offers, the delivered responses and the
configuration are as before. -/
def Obligations.EveryRequestIsAnswered : Prop :=
  ∀ (s : State) (r : Request) (rest : List Request), Quiet s → s.phase = .idle → s.reqs = r :: rest →
    ∃ k ≤ 1 + 2 * r.count.toNat, ∃ t, Sys2Proof.core.run k s = .next t ∧
      t.phase = .done ∧ t.cur = r ∧ t.out = responseTo s.config s.mem r ∧
      t.mem = s.mem ∧ t.reqs = rest ∧ t.rsps = s.rsps ∧ t.config = s.config

/-- R150, R151, R153, R154: the response a packet is owed has status 2 and value 0 exactly for an illegal opcode, status 0
for every scalar operation, and for a reduction status 0, or status 1 with the address of a window word that answers
`Err`, which takes a window that is not empty; no other status is produced. -/
def Obligations.StatusCodesByOperation : Prop :=
  ∀ (c : ConfigChoice) (m : Memory) (r : Request),
    match decode r with
    | .error _ => responseTo c m r = responseOf 2#8 0#64
    | .ok i =>
      (isReduction i = false → responseStatus (responseTo c m r) = 0#8) ∧
        (isReduction i = true →
          responseStatus (responseTo c m r) = 0#8 ∨
            (responseStatus (responseTo c m r) = 1#8 ∧ i.count ≠ 0#32 ∧
              m.word? (responseValue (responseTo c m r)) = none ∧ inWindow r (responseValue (responseTo c m r))))

/-- R123: a window total is at most 64 for each element, and at most `0x3FFFFFFFC0` for every window a request can
express, so the 64-bit total does not wrap and is not negative. -/
def Obligations.TotalCannotOverflow : Prop :=
  ∀ (g : Word → Word → Word) (x y : Nat → Word) (count : Word32),
    windowTotal g x y count.toNat ≤ 64 * count.toNat ∧ windowTotal g x y count.toNat ≤ 0x3FFFFFFFC0 ∧
      (BitVec.ofNat 64 (windowTotal g x y count.toNat)).toInt = windowTotal g x y count.toNat

/-- R130: partition, inclusion and exclusion, XOR, and symmetry of the results, for every pair of bases and every
window all of whose words answer with data; and `POPANDN` is not symmetric. -/
def Obligations.ReductionLaws : Prop :=
  (∃ (m : Memory) (a b : Word), m.word? a ≠ none ∧ m.word? b ≠ none ∧
    responseTo .reference m (encode (.popandn a b 0#32 1#32)) ≠
      responseTo .reference m (encode (.popandn b a 0#32 1#32))) ∧
  ∀ (c : ConfigChoice) (m : Memory) (a b : Word) (start count : Word32),
    (∀ j < count.toNat, m.word? (elementAddress a start j) ≠ none ∧ m.word? (elementAddress b start j) ≠ none) →
    let value := fun i : Instr => (responseValue (responseTo c m (encode i))).toNat
    (∀ i ∈ [Instr.poparr a b start count, .popandn a b start count, .popint a b start count,
        .popuni a b start count, .popxor a b start count],
      responseStatus (responseTo c m (encode i)) = 0#8) ∧
    value (.popandn a b start count) + value (.popint a b start count) = value (.poparr a b start count) ∧
    value (.popuni a b start count) + value (.popint a b start count) =
      value (.poparr a b start count) + value (.poparr b a start count) ∧
    value (.popxor a b start count) + value (.popint a b start count) = value (.popuni a b start count) ∧
    value (.popint a b start count) = value (.popint b a start count) ∧
    value (.popuni a b start count) = value (.popuni b a start count) ∧
    value (.popxor a b start count) = value (.popxor b a start count) ∧
    value (.poparr a b start count) =
      ((List.range count.toNat).map fun j => popcount ((m.word? (elementAddress a start j)).getD 0#64)).sum

/-! ## The unit's steps and the agents (10_state.md, 70_reset_and_hazards.md) -/

/-- R30: with the requester accepting, the unit's turn in `DONE` moves the response to the requester, sets the phase to
`IDLE`, and changes nothing else. -/
def Obligations.DeliverMovesTheResponse : Prop :=
  ∀ s s₀ : State, UnitTurn s s₀ → s.phase = .done → s.rspReady = true →
    step s = .next { s₀ with phase := .idle, rsps := s.rsps ++ [s.out] }

/-- While the unit is `IDLE` with no request offered, `BUSY` with the platform not answering (for a reduction in `cur`),
or `DONE` with the requester not accepting, its step changes nothing: R28 to R31 say that no step of the unit is
enabled there, and that the machine then takes a step that changes nothing is the model's choice (log entry 6).
R28, R173: while it is not `IDLE` its step takes no request from the REQ channel. -/
def Obligations.UnitWaits : Prop :=
  ∀ s : State,
    (s.phase = .idle → s.reqs = [] → unitStep s = .next s) ∧
      (∀ i, s.phase = .busy → s.memReady = false → decode s.cur = .ok i → isReduction i = true →
        unitStep s = .next s) ∧
      (s.phase = .done → s.rspReady = false → unitStep s = .next s) ∧
      (∀ t, s.phase ≠ .idle → unitStep s = .next t → t.reqs = s.reqs)

/-- R27, R177: once captured the request never changes while its operation is in flight: no step of the unit and no
action of another agent but reset changes `cur` in `BUSY` or `DONE`. -/
def Obligations.CapturedRequestIsFixed : Prop :=
  ∀ s t : State, s.phase ≠ .idle → (∀ rest, s.agenda ≠ .reset :: rest) → step s = .next t → t.cur = s.cur

/-- R170: the reset input in any phase makes the unit `IDLE`, produces no response, sends no read, and changes no
memory. That the offers not yet accepted stay on the REQ channel is the model's choice (log entry 9; R170 says nothing
of them), and so are the parts of the other agents that the model holds as fields (log entries 1 and 6). -/
def Obligations.ResetAbandonsTheOperation : Prop :=
  ∀ (s : State) (rest : List Event), s.agenda = .reset :: rest →
    ∃ t, step s = .next t ∧ t.phase = .idle ∧ t.rsps = s.rsps ∧ t.reads = s.reads ∧ t.mem = s.mem ∧
      t.reqs = s.reqs ∧ t.rspReady = s.rspReady ∧ t.memReady = s.memReady ∧ t.agenda = rest ∧ t.config = s.config

/-- R33: right after reset the unit is `IDLE`, no request is waiting, no response is pending and no read has been
sent. -/
def Obligations.ResetState : Prop :=
  State.reset.phase = .idle ∧ State.reset.reqs = [] ∧ State.reset.rsps = [] ∧ State.reset.reads = []

/-- R26: what each action of another agent does: it changes its own part of the machine, takes itself off the agenda
and touches nothing of the unit's record. -/
def Obligations.AgentActions : Prop :=
  ∀ (s : State) (rest : List Event),
    (∀ r, s.agenda = .offer r :: rest → step s = .next { s with agenda := rest, reqs := s.reqs ++ [r] }) ∧
      (∀ ready, s.agenda = .acceptResponses ready :: rest →
        step s = .next { s with agenda := rest, rspReady := ready }) ∧
      (∀ ready, s.agenda = .answerReads ready :: rest →
        step s = .next { s with agenda := rest, memReady := ready }) ∧
      (∀ wa answer, s.agenda = .memory wa answer :: rest →
        step s = .next { s with agenda := rest, mem := s.mem.answer wa answer })

/-- The frame of every instruction, in every phase: `exec` never changes memory, the offers, the other agents' parts,
the configuration or the count of free values; the responses delivered change only by DELIVER, by the one waiting
response; the reads sent change only by READ, by at most one; the packet changes only by ACCEPT; a scalar operation
changes none of `i`, `sel`, `wa_reg`, `acc`, and a reduction changes them only in ACCEPT and READ. -/
def Obligations.ExecFrame : Prop :=
  ∀ (i : Instr) (s t : State), exec i s = .next t →
    t.mem = s.mem ∧ t.reqs = s.reqs ∧ t.rspReady = s.rspReady ∧ t.memReady = s.memReady ∧
      t.agenda = s.agenda ∧ t.config = s.config ∧ t.freeCount = s.freeCount ∧
      (s.phase ≠ .done → t.rsps = s.rsps) ∧
      (s.phase = .done → t = s ∨ t = { s with phase := .idle, rsps := s.rsps ++ [s.out] }) ∧
      (s.phase ≠ .busy → t.reads = s.reads) ∧
      (s.phase = .busy → t.reads = s.reads ∨ ∃ wa, t.reads = s.reads ++ [wa]) ∧
      (s.phase = .idle → t.cur = encode i) ∧ (s.phase ≠ .idle → t.cur = s.cur) ∧
      (isReduction i = false → t.i = s.i ∧ t.sel = s.sel ∧ t.waReg = s.waReg ∧ t.acc = s.acc) ∧
      (s.phase = .idle → t.waReg = s.waReg) ∧ (t.phase = .busy → t.out = s.out)

/-- R44: no step of the unit changes memory; over whole steps, memory changes only by an action of the platform, and
then by that action alone. -/
def Obligations.UnitNeverWritesMemory : Prop :=
  (∀ s t : State, unitStep s = .next t → t.mem = s.mem) ∧
    ∀ s t : State, step s = .next t → t.mem ≠ s.mem →
      ∃ wa answer rest, s.agenda = .memory wa answer :: rest ∧ t.mem = s.mem.answer wa answer

/-- R43: from every state that meets the invariant, a step sends at most one read, and only in `BUSY`, and only of a
window address of the request in flight. -/
def Obligations.NoReadOutsideTheWindow : Prop :=
  ∀ s t : State, Inv s → step s = .next t →
    t.reads = s.reads ∨ ∃ wa, t.reads = s.reads ++ [wa] ∧ s.phase = .busy ∧ inWindow s.cur wa

/-- The invariant holds right after reset. -/
def Obligations.InvariantAtReset : Prop := Inv State.reset

/-- R27, R150: every step keeps the invariant: memory stays in its canonical form; in `BUSY` the record is that of a
legal reduction, with `i < count`, `sel = B` only when pairwise, and a total of at most 64 for each element read; in
`DONE` the response is one R150 allows for the request. -/
def Obligations.StepKeepsTheInvariant : Prop :=
  ∀ s t : State, Inv s → step s = .next t → Inv t

/-- R154, R157: from every state that meets the invariant the machine goes on: no instruction, no packet, no operand
and no action of another agent stops it. -/
def Obligations.MachineNeverStops : Prop :=
  ∀ s : State, Inv s → ∃ t, step s = .next t

/-- R20, R27: no rule reads a field of the record outside the phases in which it is valid, and nothing of a finished
operation is seen by a later one: states that agree on the valid fields and on the channels step to states that
agree. -/
def Obligations.UnitIsStateless : Prop :=
  ∀ s t s' : State, Agree s t → step s = .next s' → ∃ t', step t = .next t' ∧ Agree s' t'

/-- R178: from every state that meets the invariant in which an operation is in flight and the system is quiet, the
unit is `DONE` within `2 * (2^32 - 1)` steps. -/
def Obligations.EveryReductionTerminates : Prop :=
  ∀ s : State, Inv s → Quiet s → s.phase = .busy →
    ∃ k ≤ 2 * (2 ^ 32 - 1), ∃ t, Sys2Proof.core.run k s = .next t ∧ t.phase = .done

/-- The memory of the model (log entries 3 and 4): after an action of the platform at `wa`, a read of `wa` answers as
that action says, a read of any other word address answers as before, and the canonical form is kept. -/
def Obligations.MemoryAnswersTheLastWrite : Prop :=
  ∀ (m : Memory) (wa : Word) (answer : Option Word), m.wf →
    (m.answer wa answer).wf ∧ (m.answer wa answer).word? wa = answer ∧
      ∀ wa' : Word, wa' ≠ wa → (m.answer wa answer).word? wa' = m.word? wa'

/-- The canonical form of memory (log entries 3 and 4): two memories that answer every word address alike are equal
data. -/
def Obligations.EqualMemoriesAreEqualData : Prop :=
  ∀ m m' : Memory, m.wf → m'.wf → (∀ wa : Word, m.word? wa = m'.word? wa) → m = m'

/-- R69: the aliases assemble to exactly the requests shown, on sample lines; and a line of R68 with a comment and an
annotation gives the packet and the expected response of 95_test_vectors.md. -/
def Obligations.AssemblerSamples : Prop :=
  Asm.line "CTZ 8".toList = Asm.line "NTZ 8".toList ∧
    Asm.line "POPCOUNT 0x1004".toList = Asm.line "POPARR 0x1004, 0, 1".toList ∧
    (Asm.line "POPCOUNT 0x1004".toList).map (·.request) = some (encode (.poparr 0x1004#64 0#64 0#32 1#32)) ∧
    Asm.line "popint 0x1000, 0x2000, 8, 4 => FAULT(0x100A) # off the end".toList =
      some ⟨0x00000004000000080000000000002000000000000000100012#200, some 0x000000000000100A01#72⟩
end

