-- ==== Sys2Proof/Laws/Decode.lean ====
section
/-! SUPPORT. The fields of a packet built from fields (30_encoding.md R60), and what the decoder answers. -/

namespace Sys2Proof

/-- Two bit vectors side by side as one number. -/
theorem toNat_append_add {v w : Nat} (x : BitVec v) (y : BitVec w) :
    (x ++ y).toNat = x.toNat * 2 ^ w + y.toNat := by
  rw [BitVec.toNat_append, ← Nat.shiftLeft_add_eq_or_of_lt y.isLt, Nat.shiftLeft_eq]

@[simp] theorem op_pack (op : Byte) (a b : Word) (start count : Word32) :
    (Request.pack op a b start count).op = op := by
  apply BitVec.eq_of_toNat_eq
  simp only [Request.op, Request.pack, BitVec.extractLsb'_toNat, toNat_append_add, Nat.shiftRight_eq_div_pow]
  have := op.isLt; omega

@[simp] theorem a_pack (op : Byte) (a b : Word) (start count : Word32) :
    (Request.pack op a b start count).a = a := by
  apply BitVec.eq_of_toNat_eq
  simp only [Request.a, Request.pack, BitVec.extractLsb'_toNat, toNat_append_add, Nat.shiftRight_eq_div_pow]
  have := op.isLt; have := a.isLt; omega

@[simp] theorem b_pack (op : Byte) (a b : Word) (start count : Word32) :
    (Request.pack op a b start count).b = b := by
  apply BitVec.eq_of_toNat_eq
  simp only [Request.b, Request.pack, BitVec.extractLsb'_toNat, toNat_append_add, Nat.shiftRight_eq_div_pow]
  have := op.isLt; have := a.isLt; have := b.isLt; omega

@[simp] theorem start_pack (op : Byte) (a b : Word) (start count : Word32) :
    (Request.pack op a b start count).start = start := by
  apply BitVec.eq_of_toNat_eq
  simp only [Request.start, Request.pack, BitVec.extractLsb'_toNat, toNat_append_add, Nat.shiftRight_eq_div_pow]
  have := op.isLt; have := a.isLt; have := b.isLt; have := start.isLt; omega

@[simp] theorem count_pack (op : Byte) (a b : Word) (start count : Word32) :
    (Request.pack op a b start count).count = count := by
  apply BitVec.eq_of_toNat_eq
  simp only [Request.count, Request.pack, BitVec.extractLsb'_toNat, toNat_append_add, Nat.shiftRight_eq_div_pow]
  have := op.isLt; have := a.isLt; have := b.isLt; have := start.isLt; have := count.isLt; omega

@[simp] theorem op_encode (i : Instr) : (encode i).op = i.opcode := op_pack ..
@[simp] theorem a_encode (i : Instr) : (encode i).a = i.a := a_pack ..
@[simp] theorem b_encode (i : Instr) : (encode i).b = i.b := b_pack ..
@[simp] theorem start_encode (i : Instr) : (encode i).start = i.start := start_pack ..
@[simp] theorem count_encode (i : Instr) : (encode i).count = i.count := count_pack ..

/-- What the decoder can answer: an instruction with the packet's fields and its opcode, or the packet's opcode as
illegal, which is then none of the twelve. -/
theorem decode_cases (r : Request) :
    (∃ i, decode r = .ok i ∧ i.opcode = r.op ∧ i.a = r.a ∧ i.b = r.b ∧ i.start = r.start ∧ i.count = r.count) ∨
      (decode r = .error (.illegalOpcode r.op) ∧ legalOpcode r.op = false) := by
  unfold decode
  split
  all_goals try (next h => exact .inl ⟨_, rfl, h.symm, rfl, rfl, rfl, rfl⟩)
  next h1 h2 h3 h4 h5 h6 h7 h8 h9 h10 h11 h12 =>
    refine .inr ⟨rfl, ?_⟩
    simp only [legalOpcode, legalOpcodes, List.contains_cons, List.contains_nil, Bool.or_false, Bool.or_eq_false_iff,
      beq_eq_false_iff_ne]
    exact ⟨h1, h2, h3, h4, h5, h6, h7, h8, h9, h10, h11, h12⟩

end Sys2Proof
end

