-- ==== Sys2Proof/Laws/Memory.lean ====
section
/-! SUPPORT. The laws of the memory list: what a cell reads as after a cell is set, what a word reads as after a word is
set or dropped, and that every operation keeps the canonical form. -/

namespace Sys2Proof.Machine

/-! ### One cell -/

theorem cell?_setCell_same (m : Memory) (k : Nat) (v : Byte) : (m.setCell k v).cell? k = some v := by
  induction m with
  | nil => simp [Memory.setCell, Memory.cell?]
  | cons c rest ih =>
    obtain ⟨key, x⟩ := c
    simp only [Memory.setCell]
    split
    · simp [Memory.cell?]
    · split
      · simp [Memory.cell?]
      · have : key ≠ k := by omega
        simp [Memory.cell?, this, ih]

theorem cell?_setCell_other (m : Memory) {k k' : Nat} (v : Byte) (h : k' ≠ k) :
    (m.setCell k v).cell? k' = m.cell? k' := by
  induction m with
  | nil => simp [Memory.setCell, Memory.cell?, h.symm]
  | cons c rest ih =>
    obtain ⟨key, x⟩ := c
    simp only [Memory.setCell]
    split
    · simp [Memory.cell?, h.symm]
    · split
      · next heq => subst heq; simp [Memory.cell?, h.symm]
      · by_cases hk : key = k' <;> simp [Memory.cell?, hk, ih]

theorem mem_keys_setCell (m : Memory) (k k' : Nat) (v : Byte) :
    k' ∈ (m.setCell k v).map Prod.fst ↔ k' = k ∨ k' ∈ m.map Prod.fst := by
  induction m with
  | nil => simp [Memory.setCell]
  | cons c rest ih =>
    obtain ⟨key, x⟩ := c
    simp only [Memory.setCell]
    split
    · simp
    · split
      · next heq => subst heq; simp
      · rw [List.map_cons, List.mem_cons, ih, List.map_cons, List.mem_cons]; tauto

theorem setCell_rising {m : Memory} (h : (m.map Prod.fst).Pairwise (· < ·)) (k : Nat) (v : Byte) :
    ((m.setCell k v).map Prod.fst).Pairwise (· < ·) := by
  induction m with
  | nil => simp [Memory.setCell]
  | cons c rest ih =>
    obtain ⟨key, x⟩ := c
    rw [List.map_cons, List.pairwise_cons] at h
    simp only [Memory.setCell]
    split
    · next hlt =>
      rw [List.map_cons, List.map_cons, List.pairwise_cons, List.pairwise_cons]
      refine ⟨fun b hb => ?_, h⟩
      rcases List.mem_cons.1 hb with rfl | hb
      · exact hlt
      · exact lt_trans hlt (h.1 b hb)
    · split
      · next heq => subst heq; exact List.pairwise_cons.2 h
      · rw [List.map_cons, List.pairwise_cons]
        refine ⟨fun b hb => ?_, ih h.2⟩
        rcases (mem_keys_setCell rest k b v).1 hb with rfl | hb
        · simp only; omega
        · exact h.1 b hb

theorem cell?_eq_none_iff (m : Memory) (k : Nat) : m.cell? k = none ↔ k ∉ m.map Prod.fst := by
  induction m with
  | nil => simp [Memory.cell?]
  | cons c rest ih =>
    obtain ⟨key, x⟩ := c
    by_cases h : key = k
    · simp [Memory.cell?, h]
    · simp [Memory.cell?, h, ih, Ne.symm h]

/-- The cell of one key after `setCell`. -/
theorem cell?_setCell (m : Memory) (k k' : Nat) (v : Byte) :
    (m.setCell k v).cell? k' = if k' = k then some v else m.cell? k' := by
  split
  · next h => subst h; exact cell?_setCell_same m _ v
  · next h => exact cell?_setCell_other m v h

/-! ### One word -/

theorem setWord_eq (m : Memory) (wa d : Word) :
    m.setWord wa d =
      (((((((m.setCell (cellKey wa 0) (d.extractLsb' 0 8)).setCell (cellKey wa 1) (d.extractLsb' 8 8)).setCell
        (cellKey wa 2) (d.extractLsb' 16 8)).setCell (cellKey wa 3) (d.extractLsb' 24 8)).setCell
        (cellKey wa 4) (d.extractLsb' 32 8)).setCell (cellKey wa 5) (d.extractLsb' 40 8)).setCell
        (cellKey wa 6) (d.extractLsb' 48 8)).setCell (cellKey wa 7) (d.extractLsb' 56 8) := rfl

theorem cellKey_inj {wa wa' : Word} {l l' : Nat} (hl : l < 8) (hl' : l' < 8) :
    cellKey wa l = cellKey wa' l' ↔ wa = wa' ∧ l = l' := by
  rw [← BitVec.toNat_inj]
  unfold cellKey
  omega

/-- The eight bytes of a word, put together again, are the word. -/
theorem join_bytes (d : Word) :
    d.extractLsb' 56 8 ++ d.extractLsb' 48 8 ++ d.extractLsb' 40 8 ++ d.extractLsb' 32 8 ++ d.extractLsb' 24 8 ++
      d.extractLsb' 16 8 ++ d.extractLsb' 8 8 ++ d.extractLsb' 0 8 = d := by
  apply BitVec.eq_of_getLsbD_eq
  intro i hi
  simp only [BitVec.getLsbD_append, BitVec.getLsbD_extractLsb']
  interval_cases i <;> simp

theorem word?_setWord_same (m : Memory) (wa d : Word) : (m.setWord wa d).word? wa = some d := by
  rw [setWord_eq]
  unfold Memory.word?
  simp (disch := omega) only [cell?_setCell, cellKey_inj, true_and, reduceIte, Nat.reduceEqDiff, OfNat.ofNat_ne_zero,
    OfNat.zero_ne_ofNat, OfNat.one_ne_ofNat, OfNat.ofNat_ne_one, zero_ne_one, one_ne_zero, Option.some.injEq]
  exact join_bytes d

theorem word?_setWord_other (m : Memory) {wa wa' : Word} (d : Word) (h : wa' ≠ wa) :
    (m.setWord wa d).word? wa' = m.word? wa' := by
  rw [setWord_eq]
  unfold Memory.word?
  simp (disch := omega) only [cell?_setCell, cellKey_inj, h, false_and, if_false]

theorem word?_congr {m m' : Memory} {wa : Word} (h : ∀ lane < 8, m.cell? (cellKey wa lane) = m'.cell? (cellKey wa lane)) :
    m.word? wa = m'.word? wa := by
  unfold Memory.word?
  rw [h 0 (by omega), h 1 (by omega), h 2 (by omega), h 3 (by omega), h 4 (by omega), h 5 (by omega), h 6 (by omega),
    h 7 (by omega)]

theorem cell?_dropWord (m : Memory) (wa : Word) (k : Nat) :
    (m.dropWord wa).cell? k = if k / 8 = wa.toNat then none else m.cell? k := by
  induction m with
  | nil => simp [Memory.dropWord, Memory.cell?]
  | cons c rest ih =>
    obtain ⟨key, x⟩ := c
    unfold Memory.dropWord at ih ⊢
    by_cases hk : key / 8 = wa.toNat
    · rw [List.filter_cons_of_neg (by simpa using hk), ih]
      split
      · rfl
      · next h => rw [Memory.cell?, if_neg (by rintro rfl; exact h hk)]
    · rw [List.filter_cons_of_pos (by simpa using hk), Memory.cell?, Memory.cell?, ih]
      by_cases h : key = k
      · subst h; simp [hk]
      · simp [h]

theorem cellKey_div {wa : Word} {lane : Nat} (h : lane < 8) : cellKey wa lane / 8 = wa.toNat := by
  unfold cellKey; omega

theorem word?_dropWord_same (m : Memory) (wa : Word) : (m.dropWord wa).word? wa = none := by
  unfold Memory.word?
  rw [cell?_dropWord, if_pos (cellKey_div (by omega))]

theorem word?_dropWord_other (m : Memory) {wa wa' : Word} (h : wa' ≠ wa) :
    (m.dropWord wa).word? wa' = m.word? wa' := by
  apply word?_congr
  intro lane hl
  rw [cell?_dropWord, cellKey_div hl, if_neg fun h' => h (BitVec.eq_of_toNat_eq h')]

/-! ### The canonical form -/

theorem wf_nil : Memory.wf [] := by simp [Memory.wf]

theorem mem_keys_setWord (m : Memory) (wa d : Word) (k : Nat) :
    k ∈ (m.setWord wa d).map Prod.fst ↔ k / 8 = wa.toNat ∨ k ∈ m.map Prod.fst := by
  rw [setWord_eq]
  simp only [mem_keys_setCell]
  have : k / 8 = wa.toNat ↔ k = cellKey wa 7 ∨ k = cellKey wa 6 ∨ k = cellKey wa 5 ∨ k = cellKey wa 4 ∨
      k = cellKey wa 3 ∨ k = cellKey wa 2 ∨ k = cellKey wa 1 ∨ k = cellKey wa 0 := by
    unfold cellKey; omega
  rw [this]
  tauto

theorem wf_setWord {m : Memory} (h : m.wf) (wa d : Word) : (m.setWord wa d).wf := by
  have keys := mem_keys_setWord m wa d
  refine ⟨?_, fun c hc => ?_, fun c hc lane hl => ?_⟩
  · rw [setWord_eq]
    exact setCell_rising (setCell_rising (setCell_rising (setCell_rising (setCell_rising (setCell_rising
      (setCell_rising (setCell_rising h.1 _ _) _ _) _ _) _ _) _ _) _ _) _ _) _ _
  · have hk := (keys c.1).1 (List.mem_map_of_mem hc)
    rcases hk with hk | hk
    · have := wa.isLt; omega
    · obtain ⟨c', hc', e⟩ := List.mem_map.1 hk
      exact e ▸ h.2.1 c' hc'
  · have hl' : lane < 8 := List.mem_range.1 hl
    have hd : (8 * (c.1 / 8) + lane) / 8 = c.1 / 8 := by omega
    rw [keys, hd]
    rcases (keys c.1).1 (List.mem_map_of_mem hc) with hk | hk
    · exact .inl hk
    · obtain ⟨c', hc', e⟩ := List.mem_map.1 hk
      exact .inr (e ▸ h.2.2 c' hc' lane hl)

theorem wf_dropWord {m : Memory} (h : m.wf) (wa : Word) : (m.dropWord wa).wf := by
  have sub : (m.dropWord wa).Sublist m := List.filter_sublist
  refine ⟨h.1.sublist (sub.map _), fun c hc => h.2.1 c (sub.subset hc), fun c hc lane hl => ?_⟩
  have hl' : lane < 8 := List.mem_range.1 hl
  obtain ⟨hm, hne⟩ := List.mem_filter.1 hc
  obtain ⟨c', hc', e⟩ := List.mem_map.1 (h.2.2 c hm lane hl)
  refine List.mem_map.2 ⟨c', List.mem_filter.2 ⟨hc', ?_⟩, e⟩
  have hd : c'.1 / 8 = c.1 / 8 := by omega
  simpa [hd] using hne

/-- Every action of the platform keeps the canonical form. -/
theorem wf_answer {m : Memory} (h : m.wf) (wa : Word) (answer : Option Word) : (m.answer wa answer).wf := by
  cases answer with
  | none => exact wf_dropWord h wa
  | some d => exact wf_setWord h wa d

/-! ### The read port -/

theorem memRead_eq (m : Memory) (wa : Word) :
    memRead m wa = match m.word? wa with | some d => .data d | none => .err := rfl

@[simp] theorem memRead_data_iff (m : Memory) (wa d : Word) : memRead m wa = .data d ↔ m.word? wa = some d := by
  unfold memRead; split <;> simp_all

@[simp] theorem memRead_err_iff (m : Memory) (wa : Word) : memRead m wa = .err ↔ m.word? wa = none := by
  unfold memRead; split <;> simp_all

end Sys2Proof.Machine
end

