-- ==== Sys2Proof/Laws/State.lean ====
section
/-! SUPPORT. Every field of the state after every update that is not conditional, so that no later proof unfolds a
record update. -/

namespace Sys2Proof.Machine

/-! ### `capture` -/

@[simp] theorem capture_phase (r : Request) (s : State) : (capture r s).phase = s.phase := rfl
@[simp] theorem capture_cur (r : Request) (s : State) : (capture r s).cur = r := rfl
@[simp] theorem capture_i (r : Request) (s : State) : (capture r s).i = s.i := rfl
@[simp] theorem capture_sel (r : Request) (s : State) : (capture r s).sel = s.sel := rfl
@[simp] theorem capture_waReg (r : Request) (s : State) : (capture r s).waReg = s.waReg := rfl
@[simp] theorem capture_acc (r : Request) (s : State) : (capture r s).acc = s.acc := rfl
@[simp] theorem capture_out (r : Request) (s : State) : (capture r s).out = s.out := rfl
@[simp] theorem capture_reqs (r : Request) (s : State) : (capture r s).reqs = s.reqs := rfl
@[simp] theorem capture_rsps (r : Request) (s : State) : (capture r s).rsps = s.rsps := rfl
@[simp] theorem capture_reads (r : Request) (s : State) : (capture r s).reads = s.reads := rfl
@[simp] theorem capture_rspReady (r : Request) (s : State) : (capture r s).rspReady = s.rspReady := rfl
@[simp] theorem capture_memReady (r : Request) (s : State) : (capture r s).memReady = s.memReady := rfl
@[simp] theorem capture_mem (r : Request) (s : State) : (capture r s).mem = s.mem := rfl
@[simp] theorem capture_agenda (r : Request) (s : State) : (capture r s).agenda = s.agenda := rfl
@[simp] theorem capture_config (r : Request) (s : State) : (capture r s).config = s.config := rfl
@[simp] theorem capture_freeCount (r : Request) (s : State) : (capture r s).freeCount = s.freeCount := rfl

/-! ### `endOperation` -/

@[simp] theorem endOperation_phase (status : Byte) (value : Word) (s : State) : (endOperation status value s).phase = .done := rfl
@[simp] theorem endOperation_cur (status : Byte) (value : Word) (s : State) : (endOperation status value s).cur = s.cur := rfl
@[simp] theorem endOperation_i (status : Byte) (value : Word) (s : State) : (endOperation status value s).i = s.i := rfl
@[simp] theorem endOperation_sel (status : Byte) (value : Word) (s : State) : (endOperation status value s).sel = s.sel := rfl
@[simp] theorem endOperation_waReg (status : Byte) (value : Word) (s : State) : (endOperation status value s).waReg = s.waReg := rfl
@[simp] theorem endOperation_acc (status : Byte) (value : Word) (s : State) : (endOperation status value s).acc = s.acc := rfl
@[simp] theorem endOperation_out (status : Byte) (value : Word) (s : State) : (endOperation status value s).out = responseOf status value := rfl
@[simp] theorem endOperation_reqs (status : Byte) (value : Word) (s : State) : (endOperation status value s).reqs = s.reqs := rfl
@[simp] theorem endOperation_rsps (status : Byte) (value : Word) (s : State) : (endOperation status value s).rsps = s.rsps := rfl
@[simp] theorem endOperation_reads (status : Byte) (value : Word) (s : State) : (endOperation status value s).reads = s.reads := rfl
@[simp] theorem endOperation_rspReady (status : Byte) (value : Word) (s : State) : (endOperation status value s).rspReady = s.rspReady := rfl
@[simp] theorem endOperation_memReady (status : Byte) (value : Word) (s : State) : (endOperation status value s).memReady = s.memReady := rfl
@[simp] theorem endOperation_mem (status : Byte) (value : Word) (s : State) : (endOperation status value s).mem = s.mem := rfl
@[simp] theorem endOperation_agenda (status : Byte) (value : Word) (s : State) : (endOperation status value s).agenda = s.agenda := rfl
@[simp] theorem endOperation_config (status : Byte) (value : Word) (s : State) : (endOperation status value s).config = s.config := rfl
@[simp] theorem endOperation_freeCount (status : Byte) (value : Word) (s : State) : (endOperation status value s).freeCount = s.freeCount := rfl

/-! ### `raiseAccessFault` -/

@[simp] theorem raiseAccessFault_phase (wa : Word) (s : State) : (raiseAccessFault wa s).phase = .done := rfl
@[simp] theorem raiseAccessFault_cur (wa : Word) (s : State) : (raiseAccessFault wa s).cur = s.cur := rfl
@[simp] theorem raiseAccessFault_i (wa : Word) (s : State) : (raiseAccessFault wa s).i = s.i := rfl
@[simp] theorem raiseAccessFault_sel (wa : Word) (s : State) : (raiseAccessFault wa s).sel = s.sel := rfl
@[simp] theorem raiseAccessFault_waReg (wa : Word) (s : State) : (raiseAccessFault wa s).waReg = s.waReg := rfl
@[simp] theorem raiseAccessFault_acc (wa : Word) (s : State) : (raiseAccessFault wa s).acc = s.acc := rfl
@[simp] theorem raiseAccessFault_out (wa : Word) (s : State) : (raiseAccessFault wa s).out = responseOf statusAccessFault wa := rfl
@[simp] theorem raiseAccessFault_reqs (wa : Word) (s : State) : (raiseAccessFault wa s).reqs = s.reqs := rfl
@[simp] theorem raiseAccessFault_rsps (wa : Word) (s : State) : (raiseAccessFault wa s).rsps = s.rsps := rfl
@[simp] theorem raiseAccessFault_reads (wa : Word) (s : State) : (raiseAccessFault wa s).reads = s.reads := rfl
@[simp] theorem raiseAccessFault_rspReady (wa : Word) (s : State) : (raiseAccessFault wa s).rspReady = s.rspReady := rfl
@[simp] theorem raiseAccessFault_memReady (wa : Word) (s : State) : (raiseAccessFault wa s).memReady = s.memReady := rfl
@[simp] theorem raiseAccessFault_mem (wa : Word) (s : State) : (raiseAccessFault wa s).mem = s.mem := rfl
@[simp] theorem raiseAccessFault_agenda (wa : Word) (s : State) : (raiseAccessFault wa s).agenda = s.agenda := rfl
@[simp] theorem raiseAccessFault_config (wa : Word) (s : State) : (raiseAccessFault wa s).config = s.config := rfl
@[simp] theorem raiseAccessFault_freeCount (wa : Word) (s : State) : (raiseAccessFault wa s).freeCount = s.freeCount := rfl

/-! ### `raiseIllegalOp` -/

@[simp] theorem raiseIllegalOp_phase (s : State) : (raiseIllegalOp s).phase = .done := rfl
@[simp] theorem raiseIllegalOp_cur (s : State) : (raiseIllegalOp s).cur = s.cur := rfl
@[simp] theorem raiseIllegalOp_i (s : State) : (raiseIllegalOp s).i = s.i := rfl
@[simp] theorem raiseIllegalOp_sel (s : State) : (raiseIllegalOp s).sel = s.sel := rfl
@[simp] theorem raiseIllegalOp_waReg (s : State) : (raiseIllegalOp s).waReg = s.waReg := rfl
@[simp] theorem raiseIllegalOp_acc (s : State) : (raiseIllegalOp s).acc = s.acc := rfl
@[simp] theorem raiseIllegalOp_out (s : State) : (raiseIllegalOp s).out = responseOf statusIllegalOp 0#64 := rfl
@[simp] theorem raiseIllegalOp_reqs (s : State) : (raiseIllegalOp s).reqs = s.reqs := rfl
@[simp] theorem raiseIllegalOp_rsps (s : State) : (raiseIllegalOp s).rsps = s.rsps := rfl
@[simp] theorem raiseIllegalOp_reads (s : State) : (raiseIllegalOp s).reads = s.reads := rfl
@[simp] theorem raiseIllegalOp_rspReady (s : State) : (raiseIllegalOp s).rspReady = s.rspReady := rfl
@[simp] theorem raiseIllegalOp_memReady (s : State) : (raiseIllegalOp s).memReady = s.memReady := rfl
@[simp] theorem raiseIllegalOp_mem (s : State) : (raiseIllegalOp s).mem = s.mem := rfl
@[simp] theorem raiseIllegalOp_agenda (s : State) : (raiseIllegalOp s).agenda = s.agenda := rfl
@[simp] theorem raiseIllegalOp_config (s : State) : (raiseIllegalOp s).config = s.config := rfl
@[simp] theorem raiseIllegalOp_freeCount (s : State) : (raiseIllegalOp s).freeCount = s.freeCount := rfl

/-! ### `acceptIllegal` -/

@[simp] theorem acceptIllegal_phase (r : Request) (s : State) : (acceptIllegal r s).phase = .done := rfl
@[simp] theorem acceptIllegal_cur (r : Request) (s : State) : (acceptIllegal r s).cur = r := rfl
@[simp] theorem acceptIllegal_i (r : Request) (s : State) : (acceptIllegal r s).i = s.i := rfl
@[simp] theorem acceptIllegal_sel (r : Request) (s : State) : (acceptIllegal r s).sel = s.sel := rfl
@[simp] theorem acceptIllegal_waReg (r : Request) (s : State) : (acceptIllegal r s).waReg = s.waReg := rfl
@[simp] theorem acceptIllegal_acc (r : Request) (s : State) : (acceptIllegal r s).acc = s.acc := rfl
@[simp] theorem acceptIllegal_out (r : Request) (s : State) : (acceptIllegal r s).out = responseOf statusIllegalOp 0#64 := rfl
@[simp] theorem acceptIllegal_reqs (r : Request) (s : State) : (acceptIllegal r s).reqs = s.reqs := rfl
@[simp] theorem acceptIllegal_rsps (r : Request) (s : State) : (acceptIllegal r s).rsps = s.rsps := rfl
@[simp] theorem acceptIllegal_reads (r : Request) (s : State) : (acceptIllegal r s).reads = s.reads := rfl
@[simp] theorem acceptIllegal_rspReady (r : Request) (s : State) : (acceptIllegal r s).rspReady = s.rspReady := rfl
@[simp] theorem acceptIllegal_memReady (r : Request) (s : State) : (acceptIllegal r s).memReady = s.memReady := rfl
@[simp] theorem acceptIllegal_mem (r : Request) (s : State) : (acceptIllegal r s).mem = s.mem := rfl
@[simp] theorem acceptIllegal_agenda (r : Request) (s : State) : (acceptIllegal r s).agenda = s.agenda := rfl
@[simp] theorem acceptIllegal_config (r : Request) (s : State) : (acceptIllegal r s).config = s.config := rfl
@[simp] theorem acceptIllegal_freeCount (r : Request) (s : State) : (acceptIllegal r s).freeCount = s.freeCount := rfl

/-! ### `acceptScalar` -/

@[simp] theorem acceptScalar_phase (r : Request) (value : Word) (s : State) : (acceptScalar r value s).phase = .done := rfl
@[simp] theorem acceptScalar_cur (r : Request) (value : Word) (s : State) : (acceptScalar r value s).cur = r := rfl
@[simp] theorem acceptScalar_i (r : Request) (value : Word) (s : State) : (acceptScalar r value s).i = s.i := rfl
@[simp] theorem acceptScalar_sel (r : Request) (value : Word) (s : State) : (acceptScalar r value s).sel = s.sel := rfl
@[simp] theorem acceptScalar_waReg (r : Request) (value : Word) (s : State) : (acceptScalar r value s).waReg = s.waReg := rfl
@[simp] theorem acceptScalar_acc (r : Request) (value : Word) (s : State) : (acceptScalar r value s).acc = s.acc := rfl
@[simp] theorem acceptScalar_out (r : Request) (value : Word) (s : State) : (acceptScalar r value s).out = responseOf statusOk value := rfl
@[simp] theorem acceptScalar_reqs (r : Request) (value : Word) (s : State) : (acceptScalar r value s).reqs = s.reqs := rfl
@[simp] theorem acceptScalar_rsps (r : Request) (value : Word) (s : State) : (acceptScalar r value s).rsps = s.rsps := rfl
@[simp] theorem acceptScalar_reads (r : Request) (value : Word) (s : State) : (acceptScalar r value s).reads = s.reads := rfl
@[simp] theorem acceptScalar_rspReady (r : Request) (value : Word) (s : State) : (acceptScalar r value s).rspReady = s.rspReady := rfl
@[simp] theorem acceptScalar_memReady (r : Request) (value : Word) (s : State) : (acceptScalar r value s).memReady = s.memReady := rfl
@[simp] theorem acceptScalar_mem (r : Request) (value : Word) (s : State) : (acceptScalar r value s).mem = s.mem := rfl
@[simp] theorem acceptScalar_agenda (r : Request) (value : Word) (s : State) : (acceptScalar r value s).agenda = s.agenda := rfl
@[simp] theorem acceptScalar_config (r : Request) (value : Word) (s : State) : (acceptScalar r value s).config = s.config := rfl
@[simp] theorem acceptScalar_freeCount (r : Request) (value : Word) (s : State) : (acceptScalar r value s).freeCount = s.freeCount := rfl

/-! ### `resetUnit` -/

@[simp] theorem resetUnit_phase (s : State) : (resetUnit s).phase = .idle := rfl
@[simp] theorem resetUnit_cur (s : State) : (resetUnit s).cur = Config.freeValue 200 s.freeCount := rfl
@[simp] theorem resetUnit_i (s : State) : (resetUnit s).i = Config.freeValue 33 (s.freeCount + 1) := rfl
@[simp] theorem resetUnit_sel (s : State) : (resetUnit s).sel = selOfBit (Config.freeValue 1 (s.freeCount + 2)) := rfl
@[simp] theorem resetUnit_waReg (s : State) : (resetUnit s).waReg = Config.freeValue 64 (s.freeCount + 3) := rfl
@[simp] theorem resetUnit_acc (s : State) : (resetUnit s).acc = Config.freeValue 64 (s.freeCount + 4) := rfl
@[simp] theorem resetUnit_out (s : State) : (resetUnit s).out = Config.freeValue 72 (s.freeCount + 5) := rfl
@[simp] theorem resetUnit_reqs (s : State) : (resetUnit s).reqs = s.reqs := rfl
@[simp] theorem resetUnit_rsps (s : State) : (resetUnit s).rsps = s.rsps := rfl
@[simp] theorem resetUnit_reads (s : State) : (resetUnit s).reads = s.reads := rfl
@[simp] theorem resetUnit_rspReady (s : State) : (resetUnit s).rspReady = s.rspReady := rfl
@[simp] theorem resetUnit_memReady (s : State) : (resetUnit s).memReady = s.memReady := rfl
@[simp] theorem resetUnit_mem (s : State) : (resetUnit s).mem = s.mem := rfl
@[simp] theorem resetUnit_agenda (s : State) : (resetUnit s).agenda = s.agenda := rfl
@[simp] theorem resetUnit_config (s : State) : (resetUnit s).config = s.config := rfl
@[simp] theorem resetUnit_freeCount (s : State) : (resetUnit s).freeCount = s.freeCount + 6 := rfl

/-! ### `offerFirst` -/

@[simp] theorem offerFirst_phase (r : Request) (s : State) : (offerFirst r s).phase = .idle := rfl
@[simp] theorem offerFirst_cur (r : Request) (s : State) : (offerFirst r s).cur = s.cur := rfl
@[simp] theorem offerFirst_i (r : Request) (s : State) : (offerFirst r s).i = s.i := rfl
@[simp] theorem offerFirst_sel (r : Request) (s : State) : (offerFirst r s).sel = s.sel := rfl
@[simp] theorem offerFirst_waReg (r : Request) (s : State) : (offerFirst r s).waReg = s.waReg := rfl
@[simp] theorem offerFirst_acc (r : Request) (s : State) : (offerFirst r s).acc = s.acc := rfl
@[simp] theorem offerFirst_out (r : Request) (s : State) : (offerFirst r s).out = s.out := rfl
@[simp] theorem offerFirst_reqs (r : Request) (s : State) : (offerFirst r s).reqs = r :: s.reqs := rfl
@[simp] theorem offerFirst_rsps (r : Request) (s : State) : (offerFirst r s).rsps = s.rsps := rfl
@[simp] theorem offerFirst_reads (r : Request) (s : State) : (offerFirst r s).reads = s.reads := rfl
@[simp] theorem offerFirst_rspReady (r : Request) (s : State) : (offerFirst r s).rspReady = s.rspReady := rfl
@[simp] theorem offerFirst_memReady (r : Request) (s : State) : (offerFirst r s).memReady = s.memReady := rfl
@[simp] theorem offerFirst_mem (r : Request) (s : State) : (offerFirst r s).mem = s.mem := rfl
@[simp] theorem offerFirst_agenda (r : Request) (s : State) : (offerFirst r s).agenda = .unit :: s.agenda := rfl
@[simp] theorem offerFirst_config (r : Request) (s : State) : (offerFirst r s).config = s.config := rfl
@[simp] theorem offerFirst_freeCount (r : Request) (s : State) : (offerFirst r s).freeCount = s.freeCount := rfl

/-! ### `sendRead` -/

@[simp] theorem sendRead_phase (wa : Word) (s : State) : (sendRead wa s).phase = s.phase := rfl
@[simp] theorem sendRead_cur (wa : Word) (s : State) : (sendRead wa s).cur = s.cur := rfl
@[simp] theorem sendRead_i (wa : Word) (s : State) : (sendRead wa s).i = s.i := rfl
@[simp] theorem sendRead_sel (wa : Word) (s : State) : (sendRead wa s).sel = s.sel := rfl
@[simp] theorem sendRead_waReg (wa : Word) (s : State) : (sendRead wa s).waReg = s.waReg := rfl
@[simp] theorem sendRead_acc (wa : Word) (s : State) : (sendRead wa s).acc = s.acc := rfl
@[simp] theorem sendRead_out (wa : Word) (s : State) : (sendRead wa s).out = s.out := rfl
@[simp] theorem sendRead_reqs (wa : Word) (s : State) : (sendRead wa s).reqs = s.reqs := rfl
@[simp] theorem sendRead_rsps (wa : Word) (s : State) : (sendRead wa s).rsps = s.rsps := rfl
@[simp] theorem sendRead_reads (wa : Word) (s : State) : (sendRead wa s).reads = s.reads ++ [wa] := rfl
@[simp] theorem sendRead_rspReady (wa : Word) (s : State) : (sendRead wa s).rspReady = s.rspReady := rfl
@[simp] theorem sendRead_memReady (wa : Word) (s : State) : (sendRead wa s).memReady = s.memReady := rfl
@[simp] theorem sendRead_mem (wa : Word) (s : State) : (sendRead wa s).mem = s.mem := rfl
@[simp] theorem sendRead_agenda (wa : Word) (s : State) : (sendRead wa s).agenda = s.agenda := rfl
@[simp] theorem sendRead_config (wa : Word) (s : State) : (sendRead wa s).config = s.config := rfl
@[simp] theorem sendRead_freeCount (wa : Word) (s : State) : (sendRead wa s).freeCount = s.freeCount := rfl

end Sys2Proof.Machine
end

