-- ==== Sys2Proof/Laws/Ops.lean ====
section
/-! SUPPORT. What each conditional operation of the unit can do (10_state.md R28 to R30), said once: which state comes
out in which case, and which fields never change. -/

namespace Sys2Proof.Machine

/-! ### DELIVER (R30) -/

theorem deliver_ready {s : State} (h : s.rspReady = true) :
    deliver s = { s with phase := .idle, rsps := s.rsps ++ [s.out] } := if_pos h

theorem deliver_waits {s : State} (h : s.rspReady = false) : deliver s = s := by
  simp [deliver, h]

theorem deliver_cases (s : State) :
    deliver s = s ∨ deliver s = { s with phase := .idle, rsps := s.rsps ++ [s.out] } := by
  unfold deliver; split
  · exact .inr rfl
  · exact .inl rfl

/-! ### ACCEPT of a reduction (R28) -/

theorem acceptReduction_empty {count : Word32} (h : count.toNat = 0) (r : Request) (s : State) :
    acceptReduction r count s = { s with cur := r, out := responseOf statusOk 0#64, phase := .done } := if_pos h

theorem acceptReduction_starts {count : Word32} (h : count.toNat ≠ 0) (r : Request) (s : State) :
    acceptReduction r count s = { s with cur := r, i := 0#33, sel := .a, acc := 0#64, phase := .busy } := if_neg h

/-! ### READ (R29) -/

theorem nextAddress_a {s : State} (h : s.sel = .a) (a b : Word) (start : Word32) :
    nextAddress a b start s = elementAddress a start s.i.toNat := by simp [nextAddress, h]

theorem nextAddress_b {s : State} (h : s.sel = .b) (a b : Word) (start : Word32) :
    nextAddress a b start s = elementAddress b start s.i.toNat := by simp [nextAddress, h]

theorem takeAnswer_err (g : Word → Word → Word) (p : Bool) (count : Word32) (wa : Word) (s : State) :
    takeAnswer g p count wa .err s = raiseAccessFault wa s := rfl

theorem takeAnswer_first {s : State} (h : s.sel = .a) (g : Word → Word → Word) (count : Word32) (wa d : Word) :
    takeAnswer g true count wa (.data d) s = { s with waReg := d, sel := .b } := if_pos ⟨h, rfl⟩

theorem takeAnswer_count {s : State} {p : Bool} (h : ¬(s.sel = .a ∧ p = true)) (g : Word → Word → Word)
    (count : Word32) (wa d : Word) :
    takeAnswer g p count wa (.data d) s = countElement (if p then g s.waReg d else g d 0#64) count s := if_neg h

theorem readStep_waits {s : State} (h : s.memReady = false) (g : Word → Word → Word) (p : Bool) (a b : Word)
    (start count : Word32) : readStep g p a b start count s = s := by
  simp [readStep, h]

theorem readStep_err {s : State} (h : s.memReady = true) (g : Word → Word → Word) (p : Bool) {a b : Word}
    {start : Word32} (count : Word32) (herr : s.mem.word? (nextAddress a b start s) = none) :
    readStep g p a b start count s =
      raiseAccessFault (nextAddress a b start s) (sendRead (nextAddress a b start s) s) := by
  rw [readStep, if_pos h, (memRead_err_iff ..).2 herr]; rfl

theorem readStep_data_first {s : State} (h : s.memReady = true) (g : Word → Word → Word) {a b : Word}
    {start : Word32} (count : Word32) {d : Word} (hsel : s.sel = .a)
    (hd : s.mem.word? (nextAddress a b start s) = some d) :
    readStep g true a b start count s =
      { sendRead (nextAddress a b start s) s with waReg := d, sel := .b } := by
  rw [readStep, if_pos h, (memRead_data_iff ..).2 hd]
  exact if_pos ⟨hsel, rfl⟩

theorem readStep_data_count {s : State} (h : s.memReady = true) (g : Word → Word → Word) {p : Bool} {a b : Word}
    {start : Word32} (count : Word32) {d : Word} (hsel : ¬(s.sel = .a ∧ p = true))
    (hd : s.mem.word? (nextAddress a b start s) = some d) :
    readStep g p a b start count s =
      countElement (if p then g s.waReg d else g d 0#64) count
        (sendRead (nextAddress a b start s) s) := by
  rw [readStep, if_pos h, (memRead_data_iff ..).2 hd]
  exact if_neg hsel

theorem countElement_last {s : State} {count : Word32} (h : (s.i + 1#33).toNat = count.toNat) (e : Word) :
    countElement e count s =
      { s with
        acc := s.acc + BitVec.ofNat 64 (popcount e)
        i := s.i + 1#33
        sel := .a
        out := responseOf statusOk (s.acc + BitVec.ofNat 64 (popcount e))
        phase := .done } := by
  simp only [countElement, h, if_true]; rfl

theorem countElement_more {s : State} {count : Word32} (h : (s.i + 1#33).toNat ≠ count.toNat) (e : Word) :
    countElement e count s =
      { s with acc := s.acc + BitVec.ofNat 64 (popcount e), i := s.i + 1#33, sel := .a } := by
  simp only [countElement, h, if_false]

/-- The four ways a READ can go: the platform does not answer, it answers `Err`, a pairwise reduction takes the word of
array A, or an element is counted. -/
theorem readStep_cases (g : Word → Word → Word) (p : Bool) (a b : Word) (start count : Word32) (s : State) :
    (s.memReady = false ∧ readStep g p a b start count s = s) ∨
      (s.memReady = true ∧ s.mem.word? (nextAddress a b start s) = none ∧
        readStep g p a b start count s =
          raiseAccessFault (nextAddress a b start s) (sendRead (nextAddress a b start s) s)) ∨
      (s.memReady = true ∧ s.sel = .a ∧ p = true ∧ ∃ d, s.mem.word? (nextAddress a b start s) = some d ∧
        readStep g p a b start count s =
          { sendRead (nextAddress a b start s) s with waReg := d, sel := .b }) ∨
      (s.memReady = true ∧ ¬(s.sel = .a ∧ p = true) ∧ ∃ d, s.mem.word? (nextAddress a b start s) = some d ∧
        readStep g p a b start count s =
          countElement (if p then g s.waReg d else g d 0#64) count
            (sendRead (nextAddress a b start s) s)) := by
  by_cases hr : s.memReady = true
  · cases hw : s.mem.word? (nextAddress a b start s) with
    | none => exact .inr (.inl ⟨hr, rfl, readStep_err hr g p count hw⟩)
    | some d =>
      by_cases hsel : s.sel = .a ∧ p = true
      · obtain ⟨hsel, rfl⟩ := hsel
        exact .inr (.inr (.inl ⟨hr, hsel, rfl, d, rfl, readStep_data_first hr g count hsel hw⟩))
      · exact .inr (.inr (.inr ⟨hr, hsel, d, rfl, readStep_data_count hr g count hsel hw⟩))
  · have hr : s.memReady = false := by simpa using hr
    exact .inl ⟨hr, readStep_waits hr ..⟩

/-- What counting an element leaves alone. -/
theorem countElement_frame (e : Word) (count : Word32) (s : State) :
    (countElement e count s).cur = s.cur ∧ (countElement e count s).waReg = s.waReg ∧
      (countElement e count s).reqs = s.reqs ∧ (countElement e count s).rsps = s.rsps ∧
      (countElement e count s).reads = s.reads ∧ (countElement e count s).rspReady = s.rspReady ∧
      (countElement e count s).memReady = s.memReady ∧ (countElement e count s).mem = s.mem ∧
      (countElement e count s).agenda = s.agenda ∧ (countElement e count s).config = s.config ∧
      (countElement e count s).freeCount = s.freeCount := by
  by_cases h : (s.i + 1#33).toNat = count.toNat
  · rw [countElement_last h]; simp
  · rw [countElement_more h]; simp

/-- What a READ leaves alone. -/
theorem readStep_frame (g : Word → Word → Word) (p : Bool) (a b : Word) (start count : Word32) (s : State) :
    (readStep g p a b start count s).cur = s.cur ∧ (readStep g p a b start count s).reqs = s.reqs ∧
      (readStep g p a b start count s).rsps = s.rsps ∧ (readStep g p a b start count s).rspReady = s.rspReady ∧
      (readStep g p a b start count s).memReady = s.memReady ∧ (readStep g p a b start count s).mem = s.mem ∧
      (readStep g p a b start count s).agenda = s.agenda ∧ (readStep g p a b start count s).config = s.config ∧
      (readStep g p a b start count s).freeCount = s.freeCount := by
  rcases readStep_cases g p a b start count s with ⟨-, h⟩ | ⟨-, -, h⟩ | ⟨-, -, -, d, -, h⟩ | ⟨-, -, d, -, h⟩
  · rw [h]; simp
  · rw [h]; simp
  · rw [h]; simp
  · rw [h]
    have := countElement_frame (if p then g s.waReg d else g d 0#64) count
      (sendRead (nextAddress a b start s) s)
    simp only [sendRead_cur, sendRead_reqs, sendRead_rsps, sendRead_rspReady, sendRead_memReady, sendRead_mem,
      sendRead_agenda, sendRead_config, sendRead_freeCount] at this
    tauto

end Sys2Proof.Machine
end

