-- ==== Sys2Proof/Laws/Exec.lean ====
section
/-! SUPPORT. What `exec` and `step` can do, said once: the twelve meanings are two shapes, a scalar operation and a
reduction, and a step is an action of the agenda or one of the unit's steps. -/

namespace Sys2Proof.Machine

/-- Every operation is a scalar operation or a reduction (00_scope.md R10). -/
theorem scalar_or_reduction (c : ConfigChoice) (i : Instr) :
    (∃ v, scalarOf c i = some v ∧ reductionOf i = none) ∨ (∃ g p, reductionOf i = some (g, p) ∧ scalarOf c i = none) := by
  cases i <;> simp [scalarOf, reductionOf]

theorem exec_scalar {i : Instr} {s : State} {v : Word} (h : scalarOf s.config i = some v) :
    exec i s = scalarStep (encode i) v s := by
  cases i <;> simp only [scalarOf, Option.some.injEq, reduceCtorEq] at h <;> subst h <;> rfl

theorem exec_reduction {i : Instr} {g : Word → Word → Word} {p : Bool} (h : reductionOf i = some (g, p)) (s : State) :
    exec i s = reductionStep (encode i) g p i.a i.b i.start i.count s := by
  cases i <;> simp only [reductionOf, Option.some.injEq, Prod.mk.injEq, reduceCtorEq] at h <;>
    obtain ⟨rfl, rfl⟩ := h <;> rfl

theorem reductionOf_pairwise {i : Instr} {g : Word → Word → Word} {p : Bool} (h : reductionOf i = some (g, p)) :
    isReduction i = true ∧ pairwiseInstr i = p := by
  simp [isReduction, pairwiseInstr, h]

/-- What `exec` can do, by phase: ACCEPT, READ (for a scalar operation, the fault) or DELIVER. -/
theorem exec_cases (i : Instr) (s : State) :
    (∃ v, scalarOf s.config i = some v ∧
        (s.phase = .idle → exec i s = .next (acceptScalar (encode i) v s)) ∧
        (s.phase = .busy → exec i s = .fault .busyWithoutReduction) ∧
        (s.phase = .done → exec i s = .next (deliver s))) ∨
      (∃ g p, reductionOf i = some (g, p) ∧
        (s.phase = .idle → exec i s = .next (acceptReduction (encode i) i.count s)) ∧
        (s.phase = .busy → exec i s = .next (readStep g p i.a i.b i.start i.count s)) ∧
        (s.phase = .done → exec i s = .next (deliver s))) := by
  rcases scalar_or_reduction s.config i with ⟨v, hv, -⟩ | ⟨g, p, hr, -⟩
  · refine .inl ⟨v, hv, ?_⟩
    rw [exec_scalar hv]
    refine ⟨fun h => ?_, fun h => ?_, fun h => ?_⟩ <;> simp only [scalarStep, h]
  · refine .inr ⟨g, p, hr, ?_⟩
    rw [exec_reduction hr]
    refine ⟨fun h => ?_, fun h => ?_, fun h => ?_⟩ <;> simp only [reductionStep, h]

theorem exec_done {s : State} (h : s.phase = .done) (i : Instr) : exec i s = .next (deliver s) := by
  rcases exec_cases i s with ⟨v, -, -, -, hd⟩ | ⟨g, p, -, -, -, hd⟩ <;> exact hd h

/-! ### The unit's step -/

theorem unitStep_idle_none {s : State} (h : s.phase = .idle) (hr : s.reqs = []) : unitStep s = .next s := by
  unfold unitStep; simp [h, hr]

theorem unitStep_idle_ok {s : State} {r : Request} {rest : List Request} {i : Instr} (h : s.phase = .idle)
    (hr : s.reqs = r :: rest) (hd : decode r = .ok i) : unitStep s = exec i { s with reqs := rest } := by
  unfold unitStep; simp [h, hr, hd]

theorem unitStep_idle_illegal {s : State} {r : Request} {rest : List Request} {e : DecodeError} (h : s.phase = .idle)
    (hr : s.reqs = r :: rest) (hd : decode r = .error e) :
    unitStep s = .next (acceptIllegal r { s with reqs := rest }) := by
  unfold unitStep; simp [h, hr, hd]

theorem unitStep_busy_ok {s : State} {i : Instr} (h : s.phase = .busy) (hd : decode s.cur = .ok i) :
    unitStep s = exec i s := by
  unfold unitStep; simp [h, hd]

theorem unitStep_busy_illegal {s : State} {e : DecodeError} (h : s.phase = .busy) (hd : decode s.cur = .error e) :
    unitStep s = .fault .busyWithoutReduction := by
  unfold unitStep; simp [h, hd]

theorem unitStep_done {s : State} (h : s.phase = .done) : unitStep s = .next (deliver s) := by
  unfold unitStep; simp [h]

/-! ### The step of the machine -/

/-- Taking the unit's turn off the agenda changes nothing else. -/
theorem UnitTurn.eq_agenda {s s₀ : State} (h : UnitTurn s s₀) : s₀ = { s with agenda := s₀.agenda } := by
  rcases h with ⟨-, rfl⟩ | ⟨rest, -, rfl⟩ <;> rfl

theorem UnitTurn.phase {s s₀ : State} (h : UnitTurn s s₀) : s₀.phase = s.phase := by rw [h.eq_agenda]
theorem UnitTurn.cur {s s₀ : State} (h : UnitTurn s s₀) : s₀.cur = s.cur := by rw [h.eq_agenda]
theorem UnitTurn.reqs {s s₀ : State} (h : UnitTurn s s₀) : s₀.reqs = s.reqs := by rw [h.eq_agenda]
theorem UnitTurn.rsps {s s₀ : State} (h : UnitTurn s s₀) : s₀.rsps = s.rsps := by rw [h.eq_agenda]
theorem UnitTurn.reads {s s₀ : State} (h : UnitTurn s s₀) : s₀.reads = s.reads := by rw [h.eq_agenda]
theorem UnitTurn.out {s s₀ : State} (h : UnitTurn s s₀) : s₀.out = s.out := by rw [h.eq_agenda]
theorem UnitTurn.mem {s s₀ : State} (h : UnitTurn s s₀) : s₀.mem = s.mem := by rw [h.eq_agenda]
theorem UnitTurn.rspReady {s s₀ : State} (h : UnitTurn s s₀) : s₀.rspReady = s.rspReady := by rw [h.eq_agenda]
theorem UnitTurn.config {s s₀ : State} (h : UnitTurn s s₀) : s₀.config = s.config := by rw [h.eq_agenda]

theorem step_unit {s s₀ : State} (h : UnitTurn s s₀) : step s = unitStep s₀ := by
  rcases h with ⟨ha, rfl⟩ | ⟨rest, ha, rfl⟩ <;> simp [step, systemStep, eventStep, ha]

theorem step_quiet {s : State} (h : s.agenda = []) : step s = unitStep s := step_unit (.inl ⟨h, rfl⟩)

theorem step_event {s : State} {e : Event} {rest : List Event} (h : s.agenda = e :: rest) :
    step s = eventStep e { s with agenda := rest } := by
  simp [step, systemStep, h]

/-- The seven ways a step can go: the unit's turn, or one of the actions of the agents around it. -/
theorem step_cases (s : State) :
    (∃ s₀, UnitTurn s s₀ ∧ step s = unitStep s₀) ∨
      (∃ rest, (∃ r, s.agenda = .offer r :: rest ∧ step s = .next { s with agenda := rest, reqs := s.reqs ++ [r] }) ∨
        (∃ b, s.agenda = .acceptResponses b :: rest ∧ step s = .next { s with agenda := rest, rspReady := b }) ∨
        (∃ b, s.agenda = .answerReads b :: rest ∧ step s = .next { s with agenda := rest, memReady := b }) ∨
        (∃ wa x, s.agenda = .memory wa x :: rest ∧
          step s = .next { s with agenda := rest, mem := s.mem.answer wa x }) ∨
        (s.agenda = .reset :: rest ∧ step s = .next (resetUnit { s with agenda := rest }))) := by
  cases h : s.agenda with
  | nil => exact .inl ⟨s, .inl ⟨h, rfl⟩, step_quiet h⟩
  | cons e rest =>
    cases e with
    | unit =>
      have ht : UnitTurn s { s with agenda := rest } := .inr ⟨rest, h, rfl⟩
      exact .inl ⟨_, ht, step_unit ht⟩
    | offer r => exact .inr ⟨rest, .inl ⟨r, rfl, step_event h⟩⟩
    | acceptResponses b => exact .inr ⟨rest, .inr (.inl ⟨b, rfl, step_event h⟩)⟩
    | answerReads b => exact .inr ⟨rest, .inr (.inr (.inl ⟨b, rfl, step_event h⟩))⟩
    | memory wa x => exact .inr ⟨rest, .inr (.inr (.inr (.inl ⟨wa, x, rfl, step_event h⟩)))⟩
    | reset => exact .inr ⟨rest, .inr (.inr (.inr (.inr ⟨rfl, step_event h⟩)))⟩

/-! ### Runs -/

theorem run_zero (s : State) : Sys2Proof.core.run 0 s = .next s := rfl

/-- One step of a run of any machine. -/
theorem core_run_succ (M : Host.Core) (s : M.State) (k : Nat) :
    M.run (k + 1) s =
      match M.step s with
      | .next t => M.run k t
      | .fault r => .fault r
      | .refused r => .refused r := rfl

theorem run_succ_next {s t : State} (h : step s = .next t) (k : Nat) :
    Sys2Proof.core.run (k + 1) s = Sys2Proof.core.run k t := by
  have h' : Sys2Proof.core.step s = .next t := h
  exact (core_run_succ Sys2Proof.core s k).trans (by rw [h'])

/-- The first step of a run that ends in a next state. -/
theorem run_succ_inv {s u : State} {k : Nat} (h : Sys2Proof.core.run (k + 1) s = .next u) :
    ∃ t, step s = .next t ∧ Sys2Proof.core.run k t = .next u := by
  have h' := (core_run_succ Sys2Proof.core s k).symm.trans h
  cases hs : Sys2Proof.core.step s with
  | next t => rw [hs] at h'; exact ⟨t, hs, h'⟩
  | fault r => rw [hs] at h'; cases h'
  | refused r => rw [hs] at h'; cases h'

/-- Runs put one after the other. -/
theorem run_add {s t : State} {k : Nat} (h : Sys2Proof.core.run k s = .next t) (n : Nat) :
    Sys2Proof.core.run (k + n) s = Sys2Proof.core.run n t := by
  induction k generalizing s with
  | zero => cases h; rw [Nat.zero_add]
  | succ k ih =>
    obtain ⟨u, hs, hr⟩ := run_succ_inv h
    rw [Nat.succ_add, run_succ_next hs]
    exact ih hr

end Sys2Proof.Machine
end

