-- ==== Sys2Proof/Laws/PerInstr.lean ====
section
/-! SUPPORT. The per-instruction family `OpcodeField`: the packet of an instruction carries the instruction's opcode, and
that opcode is one of the twelve (30_encoding.md R60, R64). -/

namespace Sys2Proof.Laws.OpcodeField

/-- R60, R64: the low eight bits of the packet select the operation. -/
def Statement (i : Instr) : Prop := (encode i).op = i.opcode ∧ legalOpcode i.opcode = true

theorem ispow2W (a b : Word) (start count : Word32) : Statement (.ispow2W a b start count) := ⟨op_encode _, rfl⟩
theorem ispow2D (a b : Word) (start count : Word32) : Statement (.ispow2D a b start count) := ⟨op_encode _, rfl⟩
theorem nxtpow2W (a b : Word) (start count : Word32) : Statement (.nxtpow2W a b start count) := ⟨op_encode _, rfl⟩
theorem nxtpow2D (a b : Word) (start count : Word32) : Statement (.nxtpow2D a b start count) := ⟨op_encode _, rfl⟩
theorem ntz (a b : Word) (start count : Word32) : Statement (.ntz a b start count) := ⟨op_encode _, rfl⟩
theorem ntz2 (a b : Word) (start count : Word32) : Statement (.ntz2 a b start count) := ⟨op_encode _, rfl⟩
theorem ntz3 (a b : Word) (start count : Word32) : Statement (.ntz3 a b start count) := ⟨op_encode _, rfl⟩
theorem poparr (a b : Word) (start count : Word32) : Statement (.poparr a b start count) := ⟨op_encode _, rfl⟩
theorem popandn (a b : Word) (start count : Word32) : Statement (.popandn a b start count) := ⟨op_encode _, rfl⟩
theorem popint (a b : Word) (start count : Word32) : Statement (.popint a b start count) := ⟨op_encode _, rfl⟩
theorem popuni (a b : Word) (start count : Word32) : Statement (.popuni a b start count) := ⟨op_encode _, rfl⟩
theorem popxor (a b : Word) (start count : Word32) : Statement (.popxor a b start count) := ⟨op_encode _, rfl⟩

end Sys2Proof.Laws.OpcodeField
end

