-- ==== Sys2Proof/Tests/Slice0.lean ====
section
/-! SUPPORT. Tests: expected values come from spec/95_test_vectors.md, or are written out by hand from the spec's
encodings. Then a named witness for the hypotheses of every statement that has some. -/

namespace Sys2Proof.Tests
open Sys2Proof Sys2Proof.Machine

/-! ### Well-formedness: the check refuses what R66 calls illegal -/

theorem test_illformed_zero_packet : Request.wellFormed 0#200 = false := by decide
theorem test_illformed_gap_opcode :
    Request.wellFormed (Request.pack 0x05#8 0x1234#64 0#64 0#32 0#32) = false := by decide
theorem test_illformed_past_popxor :
    Request.wellFormed (Request.pack 0x15#8 0x1000#64 0x2000#64 0#32 10#32) = false := by decide
theorem test_wellformed_popxor : Request.wellFormed 0x14#200 = true := by decide
theorem test_memory_refuses_partial_word : ¬Memory.wf [(8, 1#8)] := by decide
theorem test_memory_refuses_falling_keys : ¬Memory.wf [(1, 0#8), (0, 0#8)] := by decide

/-! ### Decoding: every constructor's word, written out from R60 and R64 (95_test_vectors.md 2.6) -/

theorem test_decode_ispow2W : decode 0x00000000000000000000000000000000FFFFFFFF0000000401#200
    = .ok (.ispow2W 0xFFFFFFFF00000004#64 0#64 0#32 0#32) := by decide
theorem test_decode_ispow2D : decode 0x00000000000000000000000000000000000000000000000802#200
    = .ok (.ispow2D 8#64 0#64 0#32 0#32) := by decide
theorem test_decode_nxtpow2W : decode 0x00000000000000000000000000000000000000007FFFFFFF03#200
    = .ok (.nxtpow2W 0x7FFFFFFF#64 0#64 0#32 0#32) := by decide
theorem test_decode_nxtpow2D : decode 0x00000000000000000000000000000000000000000000000504#200
    = .ok (.nxtpow2D 5#64 0#64 0#32 0#32) := by decide
theorem test_decode_ntz : decode 0xFFFFFFFFFFFFFFFFFFFFFFFFFFFFFFFF000000000000002808#200
    = .ok (.ntz 40#64 0xFFFFFFFFFFFFFFFF#64 0xFFFFFFFF#32 0xFFFFFFFF#32) := by decide
theorem test_decode_ntz2 : decode 0x000000000000000000000000000000000000001D001D000009#200
    = .ok (.ntz2 124555952128#64 0#64 0#32 0#32) := by decide
theorem test_decode_ntz3 : decode 0x0000000000000000000000000000000040000000000000000A#200
    = .ok (.ntz3 0x4000000000000000#64 0#64 0#32 0#32) := by decide
theorem test_decode_poparr : decode 0x00000008000000010000000000000000000000000000100010#200
    = .ok (.poparr 0x1000#64 0#64 1#32 8#32) := by decide
theorem test_decode_popandn : decode 0x00000001000000090000000000002000000000000000100011#200
    = .ok (.popandn 0x1000#64 0x2000#64 9#32 1#32) := by decide
theorem test_decode_popint : decode 0x00000009000000010000000000002000000000000000100012#200
    = .ok (.popint 0x1000#64 0x2000#64 1#32 9#32) := by decide
theorem test_decode_popuni : decode 0x0000000A000000000000000000002000000000000000100013#200
    = .ok (.popuni 0x1000#64 0x2000#64 0#32 10#32) := by decide
theorem test_decode_popxor : decode 0x00000006000000030000000000002000000000000000100014#200
    = .ok (.popxor 0x1000#64 0x2000#64 3#32 6#32) := by decide
theorem test_decode_illegal : decode 0x00000000000000000000000000000000000000000000123405#200
    = .error (.illegalOpcode 5#8) := by decide
theorem test_decodeTableWord : decodeTableWord 200 0x10 = some (.poparr 0#64 0#64 0#32 0#32) := by decide
theorem test_opcodes_distinct : legalOpcodes.Pairwise (· ≠ ·) := by decide

/-! ### One step -/

/-- The response waiting after a step. -/
def outOf : Host.Outcome State Fault Refusal → Option Response
  | .next t => if t.phase = .done then some t.out else none
  | .fault _ => none
  | .refused _ => none

/-- A memory of the given words. -/
def words (l : List (Word × Word)) : Memory := l.foldl (fun m p => m.setWord p.1 p.2) []

/-- A unit in `BUSY` on the request `i`, about to read element `j`. -/
def busyOn (i : Instr) (j : BitVec 33) (sel : Sel) (held acc : Word) (m : Memory) : State :=
  { State.reset with phase := .busy, cur := encode i, i := j, sel := sel, waReg := held, acc := acc, mem := m }

/-- A unit in `IDLE` with the requests on the REQ channel. -/
def offering (l : List Request) (m : Memory) : State := { State.reset with reqs := l, mem := m }

theorem test_ispow2W_minimum : outOf (exec (.ispow2W 0x80000000#64 0#64 0#32 0#32) State.reset)
    = some 0x000000000000000000#72 := by decide
theorem test_ispow2W_upper_half_ignored :
    outOf (exec (.ispow2W 0xFFFFFFFF00000004#64 0#64 0#32 0#32) State.reset) = some 0x000000000000000100#72 := by decide
theorem test_ispow2D_eight : outOf (exec (.ispow2D 8#64 0#64 0#32 0#32) State.reset)
    = some 0x000000000000000100#72 := by decide
theorem test_ispow2D_minimum : outOf (exec (.ispow2D 0x8000000000000000#64 0#64 0#32 0#32) State.reset)
    = some 0x000000000000000000#72 := by decide
theorem test_nxtpow2W_zero_extended : outOf (exec (.nxtpow2W 0x7FFFFFFF#64 0#64 0#32 0#32) State.reset)
    = some 0x000000008000000000#72 := by decide
theorem test_nxtpow2W_negative_reference : outOf (exec (.nxtpow2W 0x80000001#64 0#64 0#32 0#32) State.reset)
    = some 0x000000000000000000#72 := by decide
theorem test_nxtpow2D_sixth_fill_step : outOf (exec (.nxtpow2D 0x0000000100000001#64 0#64 0#32 0#32) State.reset)
    = some 0x000000020000000000#72 := by decide
theorem test_nxtpow2D_zero : outOf (exec (.nxtpow2D 0#64 0#64 0#32 0#32) State.reset)
    = some 0x000000000000000000#72 := by decide
theorem test_ntz_sign_bit_does_not_matter : outOf (exec (.ntz 0x8000000000000100#64 0#64 0#32 0#32) State.reset)
    = some 0x000000000000000800#72 := by decide
theorem test_ntz_zero_word : outOf (exec (.ntz 0#64 0#64 0#32 0#32) State.reset)
    = some 0x000000000000000000#72 := by decide
theorem test_ntz2_literal : outOf (exec (.ntz2 124555952128#64 0#64 0#32 0#32) State.reset)
    = some 0x000000000000001000#72 := by decide
theorem test_ntz2_six_reference : outOf (exec (.ntz2 6#64 0#64 0#32 0#32) State.reset)
    = some 0x000000000000000100#72 := by decide
theorem test_ntz3_literal : outOf (exec (.ntz3 0x4000000000000000#64 0#64 0#32 0#32) State.reset)
    = some 0x000000000000003E00#72 := by decide
theorem test_ntz3_top_bit : outOf (exec (.ntz3 0x8000000000000000#64 0#64 0#32 0#32) State.reset)
    = some 0x000000000000003F00#72 := by decide

theorem test_poparr_one_word :
    outOf (exec (.poparr 0x1004#64 0#64 0#32 1#32)
      (busyOn (.poparr 0x1004#64 0#64 0#32 1#32) 0#33 .a 0#64 0#64 (words [(0x1004#64, 0x00FF00FF00FF00FF#64)])))
    = some 0x000000000000002000#72 := by decide
theorem test_poparr_wraps_to_address_zero :
    outOf (exec (.poparr 0xFFFFFFFFFFFFFFFE#64 0#64 1#32 2#32)
      (busyOn (.poparr 0xFFFFFFFFFFFFFFFE#64 0#64 1#32 2#32) 1#33 .a 0#64 0#64 (words [(0#64, 7#64)])))
    = some 0x000000000000000300#72 := by decide
theorem test_popandn_last_element :
    outOf (exec (.popandn 0x1000#64 0x2000#64 8#32 1#32)
      (busyOn (.popandn 0x1000#64 0x2000#64 8#32 1#32) 0#33 .b 0x7FFFFFFFFFFFFFFF#64 0#64
        (words [(0x2008#64, 0xFFFFFFFF00000000#64)])))
    = some 0x000000000000002000#72 := by decide
theorem test_popint_fault :
    outOf (exec (.popint 0x1000#64 0x2000#64 8#32 4#32)
      (busyOn (.popint 0x1000#64 0x2000#64 8#32 4#32) 2#33 .a 0#64 32#64 (words [(0x1009#64, 1#64)])))
    = some 0x000000000000100A01#72 := by decide
theorem test_popint_last_element :
    outOf (exec (.popint 0x1000#64 0x2000#64 8#32 2#32)
      (busyOn (.popint 0x1000#64 0x2000#64 8#32 2#32) 1#33 .b 0x8000000000000001#64 31#64
        (words [(0x2009#64, 0x8000000000000000#64)])))
    = some 0x000000000000002000#72 := by decide
theorem test_popuni_last_element :
    outOf (exec (.popuni 0x1000#64 0x2000#64 5#32 1#32)
      (busyOn (.popuni 0x1000#64 0x2000#64 5#32 1#32) 0#33 .b 0xAAAAAAAAAAAAAAAA#64 0#64
        (words [(0x2005#64, 0x5555555555555555#64)])))
    = some 0x000000000000004000#72 := by decide
theorem test_popxor_read_trace :
    outOf (exec (.popxor 0x1000#64 0x2000#64 2#32 2#32)
      (busyOn (.popxor 0x1000#64 0x2000#64 2#32 2#32) 1#33 .b 1#64 1#64 (words [(0x2003#64, 3#64)])))
    = some 0x000000000000000200#72 := by decide
theorem test_illegal_packet :
    outOf (step (State.reset.withFetchWord 200 0x00000000000000000000000000000000000000000000123405))
    = some 0x000000000000000002#72 := by decide
theorem test_fetch_word_runs :
    outOf (step (State.reset.withFetchWord 200 0x00000000000000000000000000000000000000000000002808))
    = some 0x000000000000000300#72 := by decide

/-- The phase after a step. -/
def phaseOf : Host.Outcome State Fault Refusal → Option Phase
  | .next t => some t.phase
  | .fault _ => none
  | .refused _ => none

theorem test_reset_input_makes_idle :
    phaseOf (step { busyOn (.popint 0#64 0#64 0#32 3#32) 0#33 .a 0#64 0#64 [] with agenda := [.reset] })
    = some .idle := by decide

theorem test_assembler_line : (Asm.line "NTZ2 124_555_952_128 => 16".toList)
    = some ⟨0x000000000000000000000000000000000000001D001D000009#200, some 0x000000000000001000#72⟩ := by decide
theorem test_assembler_negative : (Asm.line "ispow2.w -2147483648".toList).map (·.request)
    = some 0x00000000000000000000000000000000000000008000000001#200 := by decide

/-! ### Witnesses: concrete inputs that meet the hypotheses of each statement -/

/-- A small window of 95_test_vectors.md section 2.4: elements 2 and 3 of both arrays. -/
def window : Memory :=
  words [(0x1002#64, 0x8000000000000000#64), (0x1003#64, 1#64), (0x2002#64, 0x8000000000000001#64), (0x2003#64, 3#64)]

/-- `POPXOR 0x1000, 0x2000, 2, 2` (95_test_vectors.md section 2.4). -/
def popxor22 : Instr := .popxor 0x1000#64 0x2000#64 2#32 2#32

theorem witness_StepRunsTheDecodedInstruction :
    (UnitTurn (offering [encode popxor22] window) (offering [encode popxor22] window) ∧
      decode (encode popxor22) = .ok popxor22) ∧
    (UnitTurn { busyOn popxor22 0#33 .a 0#64 0#64 window with agenda := [.unit] }
        (busyOn popxor22 0#33 .a 0#64 0#64 window) ∧
      (busyOn popxor22 0#33 .a 0#64 0#64 window).phase ≠ .idle) :=
  ⟨⟨.inl ⟨rfl, rfl⟩, by decide⟩, .inr ⟨[], rfl, rfl⟩, by decide⟩

theorem witness_FetchWordRunsFirst : decodeTableWord 200 1 = some (.ispow2W 0#64 0#64 0#32 0#32) := by decide

theorem witness_EncodeOfDecode : decode 0xFF14#200 = .ok (.popxor 0xFF#64 0#64 0#32 0#32) := by decide

theorem witness_IllegalOpcodes :
    UnitTurn (offering [0xFF#200] []) (offering [0xFF#200] []) ∧ (offering [0xFF#200] []).phase = .idle ∧
      (offering [0xFF#200] []).reqs = [0xFF#200] ∧ legalOpcode (Request.op 0xFF#200) = false ∧
      (∀ n ∈ [0, 5, 7, 0x0B, 0x0F, 0x15, 0xFF], legalOpcode (BitVec.ofNat 8 n) = false) ∧
      ∀ n ∈ [1, 4, 8, 0x0A, 0x10, 0x14], legalOpcode (BitVec.ofNat 8 n) = true :=
  ⟨.inl ⟨rfl, rfl⟩, rfl, rfl, by decide, by decide, by decide⟩

theorem witness_StepsRefineThePseudocode :
    (offering [0#200] []).phase = .idle ∧ (busyOn popxor22 0#33 .a 0#64 0#64 window).phase = .busy ∧
      (busyOn popxor22 0#33 .a 0#64 0#64 window).memReady = true ∧
      operationOf (busyOn popxor22 0#33 .a 0#64 0#64 window).config
        (busyOn popxor22 0#33 .a 0#64 0#64 window).cur.op = .reduction combineXor true :=
  ⟨rfl, rfl, rfl, rfl⟩

/-- The one hypothesis of the result statements of the seven scalar operations: `Ispow2WResult`, `Ispow2DResult`,
`Nxtpow2WResult`, `Nxtpow2DResult`, `NtzResult`, `Ntz2Result`, `Ntz3Result`. -/
theorem witness_scalar_results : State.reset.phase = .idle := rfl

/-- Both clauses of the contract in `Ntz2Result` and `Ntz3Result`, and the two ends of `SINGLE`. -/
theorem witness_contract_clauses :
    IsSingleBit 1#64 ∧ IsSingleBit 0x8000000000000000#64 ∧ ntz2Contract 6#64 = false ∧ ntz3Contract 1376285#64 = false :=
  ⟨⟨0, by decide, by decide⟩, ⟨63, by decide, by decide⟩, by decide, by decide⟩

/-- The premises of the clauses about the reference instance in the results of `NXTPOW2`, `NTZ2` and `NTZ3`. -/
theorem witness_reference_clauses :
    State.reset.config = .reference ∧ (0x80000000#64).getLsbD 31 = true ∧ (0xFFFFFFFF#64).getLsbD 31 = true ∧
      (0x8000000000000000#64).getLsbD 63 = true ∧ (0x8000000000000001#64).getLsbD 63 = true := by decide

theorem witness_FillClosedForm :
    ((0x80000001#32).getLsbD 31 = true ∧ ∀ j, 31 < j → (0x80000001#32).getLsbD j = false) ∧
      ((1#64).getLsbD 0 = true ∧ ∀ j, 0 < j → (1#64).getLsbD j = false) := by
  refine ⟨⟨by decide, fun j hj => BitVec.getLsbD_of_ge _ _ (by omega)⟩, by decide, fun j hj => ?_⟩
  rw [BitVec.getLsbD_one]; simp; omega

theorem witness_Nhp2ByRange :
    (0#32).toNat = 0 ∧ 1 ≤ (1#32).toNat ∧ (0x80000000#32).toNat ≤ 2 ^ 31 ∧ 2 ^ 31 < (0x80000001#32).toNat ∧
      1 ≤ (1#64).toNat ∧ (0x8000000000000000#64).toNat ≤ 2 ^ 63 ∧ 2 ^ 63 < (0x8000000000000001#64).toNat := by decide

theorem witness_RoundingMeetsTheTest :
    (1 ≤ (0x40000000#32).toInt ∧ (0x40000000#32).toInt ≤ 2 ^ 30) ∧ 2 ^ 30 < (0x40000001#32).toInt ∧
      ispow2 0x40000000#32 = true ∧ (1 ≤ (1#64).toInt ∧ (1#64).toInt ≤ 2 ^ 62) ∧ 2 ^ 62 < (0x7FFFFFFFFFFFFFFF#64).toInt ∧
      ispow2 (1#64) = true := by decide

theorem witness_IsolatedLowBitAgreement : (0x123456789ABCDEF0#64 : Word) ≠ 0#64 := by decide

theorem witness_IgnoredFieldsHaveNoEffect :
    (0xFFFFFFFF00000004#64).extractLsb' 0 32 = (4#64).extractLsb' 0 32 := by decide

theorem witness_ElementAddressWraps : 0xFFFFFFFE < (0xFFFFFFFF#32).toNat := by decide

theorem witness_EmptyWindowAnswersZero :
    isReduction (.poparr 0xDEAD0000#64 0#64 0xFFFFFFFF#32 0#32) = true ∧
      (Instr.poparr 0xDEAD0000#64 0#64 0xFFFFFFFF#32 0#32).count = 0#32 ∧ State.reset.phase = .idle := by decide

theorem witness_ReductionStarts :
    isReduction popxor22 = true ∧ popxor22.count ≠ 0#32 ∧ State.reset.phase = .idle := by decide

theorem witness_PoparrCountsTheWord :
    let s := busyOn (.poparr 0x1000#64 0#64 2#32 1#32) 0#33 .a 0#64 0#64 window
    s.phase = .busy ∧ s.memReady = true ∧ s.sel = .a ∧
      s.mem.word? (elementAddress 0x1000#64 2#32 s.i.toNat) = some 0x8000000000000000#64 := by decide

theorem witness_PairwiseReadsArrayAFirst :
    let s := busyOn popxor22 1#33 .a 0#64 1#64 window
    s.phase = .busy ∧ s.memReady = true ∧ s.sel = .a ∧
      s.mem.word? (elementAddress 0x1000#64 2#32 s.i.toNat) = some 1#64 := by decide

theorem witness_PairwiseCountsTheCombine :
    let s := busyOn popxor22 1#33 .b 1#64 1#64 window
    s.phase = .busy ∧ s.memReady = true ∧ s.sel = .b ∧
      s.mem.word? (elementAddress 0x2000#64 2#32 s.i.toNat) = some 3#64 := by decide

theorem witness_FailedReadEndsTheReduction :
    let s := busyOn popxor22 0#33 .b 1#64 0#64 []
    isReduction popxor22 = true ∧ s.phase = .busy ∧ s.memReady = true ∧
      s.mem.word? (elementAddress (if s.sel = .a then popxor22.a else popxor22.b) popxor22.start s.i.toNat) = none := by
  decide

theorem witness_ReductionAnswersTheTotal :
    let s := offering [encode popxor22] window
    Quiet s ∧ s.phase = .idle ∧ s.reqs = encode popxor22 :: [] ∧ reductionOf popxor22 = some (combineXor, true) ∧
      (∀ j < popxor22.count.toNat, s.mem.word? (elementAddress popxor22.a popxor22.start j)
        = some (if j = 0 then 0x8000000000000000#64 else 1#64)) ∧
      ∀ j < popxor22.count.toNat, s.mem.word? (elementAddress popxor22.b popxor22.start j)
        = some (if j = 0 then 0x8000000000000001#64 else 3#64) := by
  refine ⟨⟨rfl, rfl⟩, rfl, rfl, rfl, fun j (hj : j < 2) => ?_, fun j (hj : j < 2) => ?_⟩ <;>
    obtain rfl | rfl : j = 0 ∨ j = 1 := by omega
  all_goals rfl

/-- The same for a reduction of one array, whose `y` is zero. -/
theorem witness_ReductionAnswersTheTotal_single :
    let i : Instr := .poparr 0x1000#64 0#64 2#32 2#32
    let s := offering [encode i] window
    Quiet s ∧ s.phase = .idle ∧ s.reqs = encode i :: [] ∧ reductionOf i = some (combineArr, false) ∧
      ∀ j < i.count.toNat, s.mem.word? (elementAddress i.a i.start j)
        = some (if j = 0 then 0x8000000000000000#64 else 1#64) := by
  refine ⟨⟨rfl, rfl⟩, rfl, rfl, rfl, fun j (hj : j < 2) => ?_⟩
  obtain rfl | rfl : j = 0 ∨ j = 1 := by omega
  all_goals rfl

theorem witness_FirstFailingReadIsReported :
    let i : Instr := .popint 0x1000#64 0x2000#64 2#32 3#32
    let s := offering [encode i] window
    Quiet s ∧ s.phase = .idle ∧ s.reqs = encode i :: [] ∧ reductionOf i = some (combineInt, true) ∧
      (windowReads true i.a i.b i.start i.count.toNat)[4]? = some 0x1004#64 ∧ s.mem.word? 0x1004#64 = none ∧
      ∀ wa ∈ (windowReads true i.a i.b i.start i.count.toNat).take 4, s.mem.word? wa ≠ none := by
  refine ⟨⟨rfl, rfl⟩, rfl, rfl, rfl, by decide, by decide, ?_⟩
  have before : (windowReads true 0x1000#64 0x2000#64 2#32 3).take 4
      = [0x1002#64, 0x2002#64, 0x1003#64, 0x2003#64] := by decide
  intro wa h
  replace h : wa ∈ (windowReads true 0x1000#64 0x2000#64 2#32 3).take 4 := h
  rw [before] at h
  simp only [List.mem_cons, List.not_mem_nil, or_false] at h
  rcases h with rfl | rfl | rfl | rfl <;> decide

theorem witness_EveryRequestIsAnswered :
    Quiet (offering [0#200] []) ∧ (offering [0#200] []).phase = .idle ∧ (offering [0#200] []).reqs = 0#200 :: [] :=
  ⟨⟨rfl, rfl⟩, rfl, rfl⟩

theorem witness_ReductionLaws :
    ∀ j < (2#32).toNat, window.word? (elementAddress 0x1000#64 2#32 j) ≠ none ∧
      window.word? (elementAddress 0x2000#64 2#32 j) ≠ none := by decide

/-- Both forms of decoding in `StatusCodesByOperation`. -/
theorem witness_StatusCodesByOperation :
    decode 0#200 = .error (.illegalOpcode 0#8) ∧ isReduction popxor22 = true ∧
      isReduction (.ntz 0#64 0#64 0#32 0#32) = false := by decide

/-- A unit in `DONE` on `NTZ 8`. -/
def doneOn : State :=
  { State.reset with
    phase := .done, cur := encode (.ntz 8#64 0#64 0#32 0#32), out := 0x000000000000000300#72 }

theorem witness_DeliverMovesTheResponse :
    UnitTurn doneOn doneOn ∧ doneOn.phase = .done ∧ doneOn.rspReady = true := ⟨.inl ⟨rfl, rfl⟩, rfl, rfl⟩

theorem witness_UnitWaits :
    (State.reset.phase = .idle ∧ State.reset.reqs = []) ∧
      (∃ s : State, s.phase = .busy ∧ s.memReady = false ∧ decode s.cur = .ok popxor22 ∧ isReduction popxor22 = true) ∧
      (∃ s : State, s.phase = .done ∧ s.rspReady = false) ∧
      (doneOn.phase ≠ .idle ∧ unitStep doneOn = .next (deliver doneOn)) :=
  ⟨⟨rfl, rfl⟩, ⟨{ busyOn popxor22 0#33 .a 0#64 0#64 window with memReady := false }, by decide⟩,
    ⟨{ doneOn with rspReady := false }, rfl, rfl⟩, by decide, rfl⟩

theorem witness_CapturedRequestIsFixed :
    doneOn.phase ≠ .idle ∧ (∀ rest, doneOn.agenda ≠ .reset :: rest) ∧ step doneOn = .next (deliver doneOn) :=
  ⟨by decide, fun _ h => by simp [doneOn, State.reset] at h, rfl⟩

theorem witness_ResetAbandonsTheOperation : ({ doneOn with agenda := [.reset, .unit] } : State).agenda = .reset :: [.unit] :=
  rfl

theorem witness_AgentActions :
    ({ doneOn with agenda := [.offer 1#200] } : State).agenda = .offer 1#200 :: [] ∧
      ({ doneOn with agenda := [.acceptResponses false] } : State).agenda = .acceptResponses false :: [] ∧
      ({ doneOn with agenda := [.answerReads false] } : State).agenda = .answerReads false :: [] ∧
      ({ doneOn with agenda := [.memory 5#64 none] } : State).agenda = .memory 5#64 none :: [] :=
  ⟨rfl, rfl, rfl, rfl⟩

/-- In each phase, an instruction that answers a next state. -/
theorem witness_ExecFrame :
    (∃ t, exec (.ntz 8#64 0#64 0#32 0#32) State.reset = .next t) ∧
      (∃ t, exec popxor22 (busyOn popxor22 0#33 .a 0#64 0#64 window) = .next t) ∧ ∃ t, exec popxor22 doneOn = .next t :=
  ⟨⟨_, rfl⟩, ⟨_, rfl⟩, _, rfl⟩

theorem witness_UnitNeverWritesMemory :
    ∃ s t : State, step s = .next t ∧ t.mem ≠ s.mem :=
  ⟨{ doneOn with agenda := [.memory 5#64 (some 7#64)] }, _, rfl, by decide⟩

theorem busy_inv : Inv (busyOn popxor22 1#33 .b 1#64 1#64 window) where
  mem := by decide
  busy _ := ⟨popxor22, by decide, by decide, by decide, fun _ => by decide, by decide⟩
  done h := by cases h
  rsps r hr := by cases hr

/-- The hypotheses of `NoReadOutsideTheWindow`, `StepKeepsTheInvariant`, `MachineNeverStops` and
`EveryReductionTerminates`, all together, in `BUSY`. -/
theorem witness_invariant_statements :
    ∃ s t : State, Inv s ∧ Quiet s ∧ s.phase = .busy ∧ step s = .next t :=
  ⟨_, _, busy_inv, ⟨rfl, rfl⟩, rfl, rfl⟩

/-- Two states that differ in a field that is not valid in `IDLE`, and agree. -/
theorem witness_UnitIsStateless :
    ∃ s t s' : State, s ≠ t ∧ Agree s t ∧ step s = .next s' :=
  ⟨State.reset, { State.reset with acc := 5#64 }, State.reset, by decide, by constructor <;> simp [State.reset], rfl⟩

theorem witness_MemoryAnswersTheLastWrite : window.wf ∧ (0x1003#64 : Word) ≠ 0x1002#64 := by decide

theorem witness_EqualMemoriesAreEqualData :
    ∃ m m' : Memory, m.wf ∧ m'.wf ∧ ∀ wa : Word, m.word? wa = m'.word? wa :=
  ⟨window, window, by decide, by decide, fun _ => rfl⟩

end Sys2Proof.Tests
end

section
/-! PROOFS. Packets (30_encoding.md R60, R61, R64): encoding undoes decoding and decoding undoes encoding, and the
decoder against the operation table of R71. -/

namespace Sys2Proof

/-- R60: a packet is made of its five fields and nothing else. -/
theorem pack_fields (r : Request) : Request.pack r.op r.a r.b r.start r.count = r := by
  apply BitVec.eq_of_toNat_eq
  simp only [Request.pack, Request.op, Request.a, Request.b, Request.start, Request.count, toNat_append_add,
    BitVec.extractLsb'_toNat, Nat.shiftRight_eq_div_pow]
  have := r.isLt; omega

theorem encode_of_decode {r : Request} {i : Instr} (h : decode r = .ok i) : encode i = r := by
  rcases decode_cases r with ⟨i', hd, hop, ha, hb, hstart, hcount⟩ | ⟨hd, -⟩
  · obtain rfl : i' = i := by simpa [hd] using h
    rw [encode, hop, ha, hb, hstart, hcount, pack_fields]
  · simp [hd] at h

@[simp] theorem decode_encode (i : Instr) : decode (encode i) = .ok i := by
  unfold decode
  cases i <;> simp [Instr.opcode, Instr.a, Instr.b, Instr.start, Instr.count]

end Sys2Proof

namespace Sys2Proof.Machine

/-! ### The fields of a response -/

@[simp] theorem responseStatus_responseOf (status : Byte) (value : Word) :
    responseStatus (responseOf status value) = status := by
  apply BitVec.eq_of_toNat_eq
  simp only [responseStatus, responseOf, BitVec.extractLsb'_toNat, toNat_append_add, Nat.shiftRight_eq_div_pow]
  have := status.isLt; omega

@[simp] theorem responseValue_responseOf (status : Byte) (value : Word) :
    responseValue (responseOf status value) = value := by
  apply BitVec.eq_of_toNat_eq
  simp only [responseValue, responseOf, BitVec.extractLsb'_toNat, toNat_append_add, Nat.shiftRight_eq_div_pow]
  have := status.isLt; have := value.isLt; omega

/-! ### The operation table (R71) -/

theorem operationOf_illegal {op : Byte} (h : legalOpcode op = false) (c : ConfigChoice) :
    operationOf c op = .illegal := by
  simp only [legalOpcode, legalOpcodes, List.contains_cons, List.contains_nil, Bool.or_false, Bool.or_eq_false_iff,
    beq_eq_false_iff_ne] at h
  simp [operationOf, h]

theorem operationOf_opcode_scalar {c : ConfigChoice} {i : Instr} {v : Word} (h : scalarOf c i = some v) :
    ∃ f, operationOf c i.opcode = .scalar f ∧ f i.a = v := by
  cases i <;> simp only [scalarOf, Option.some.injEq, reduceCtorEq] at h <;> exact ⟨_, rfl, h⟩

theorem operationOf_opcode_reduction {i : Instr} {g : Word → Word → Word} {p : Bool}
    (h : reductionOf i = some (g, p)) (c : ConfigChoice) : operationOf c i.opcode = .reduction g p := by
  cases i <;> simp only [reductionOf, Option.some.injEq, Prod.mk.injEq, reduceCtorEq] at h <;>
    obtain ⟨rfl, rfl⟩ := h <;> rfl

/-- R71: the decoder and the operation table select the same thing on every packet. -/
theorem operation_cases (c : ConfigChoice) (r : Request) :
    (decode r = .error (.illegalOpcode r.op) ∧ operationOf c r.op = .illegal) ∨
      (∃ i f, decode r = .ok i ∧ operationOf c r.op = .scalar f ∧ scalarOf c i = some (f r.a)) ∨
      ∃ i g p, decode r = .ok i ∧ operationOf c r.op = .reduction g p ∧ reductionOf i = some (g, p) ∧
        i.a = r.a ∧ i.b = r.b ∧ i.start = r.start ∧ i.count = r.count := by
  rcases decode_cases r with ⟨i, hd, hop, ha, hb, hstart, hcount⟩ | ⟨hd, hop⟩
  · rcases scalar_or_reduction c i with ⟨v, hv, -⟩ | ⟨g, p, hr, -⟩
    · obtain ⟨f, hf, hfa⟩ := operationOf_opcode_scalar hv
      exact .inr (.inl ⟨i, f, hd, hop ▸ hf, by rw [hv, ← hfa, ha]⟩)
    · exact .inr (.inr ⟨i, g, p, hd, hop ▸ operationOf_opcode_reduction hr c, hr, ha, hb, hstart, hcount⟩)
  · exact .inl ⟨hd, operationOf_illegal hop c⟩

end Sys2Proof.Machine
end

section
/-! PROOFS. What the unit's steps do on a reduction and in `DONE`, as whole states (10_state.md R28 to R30), and the
actions of the agents around it (R26). -/

namespace Sys2Proof.Machine

theorem exists_reductionOf {i : Instr} (h : isReduction i = true) : ∃ g p, reductionOf i = some (g, p) := by
  obtain ⟨⟨g, p⟩, hr⟩ := Option.isSome_iff_exists.1 h
  exact ⟨g, p, hr⟩

/-- R28: ACCEPT of a scalar operation. -/
theorem exec_scalar_idle {i : Instr} {v : Word} {s : State} (hv : scalarOf s.config i = some v)
    (hp : s.phase = .idle) : exec i s = .next (acceptScalar (encode i) v s) := by
  simp only [exec_scalar hv, scalarStep, hp]

/-- R28: ACCEPT of a reduction. -/
theorem exec_reduction_idle {i : Instr} {g : Word → Word → Word} {p : Bool} {s : State}
    (hr : reductionOf i = some (g, p)) (hp : s.phase = .idle) :
    exec i s = .next (acceptReduction (encode i) i.count s) := by
  simp only [exec_reduction hr, reductionStep, hp]

/-- R29: READ of a reduction. -/
theorem exec_reduction_busy {i : Instr} {g : Word → Word → Word} {p : Bool} {s : State}
    (hr : reductionOf i = some (g, p)) (hp : s.phase = .busy) :
    exec i s = .next (readStep g p i.a i.b i.start i.count s) := by
  simp only [exec_reduction hr, reductionStep, hp]

/-- R29: counting an element, written with the number of its set bits. -/
theorem countElement_eq_counted (e : Word) (count : Word32) (s : State) :
    countElement e count s = counted (popcount e) count s := by
  by_cases h : (s.i + 1#33).toNat = count.toNat
  · rw [countElement_last h, counted, if_pos h]; rfl
  · rw [countElement_more h, counted, if_neg h]

/-- R29: the second READ of an element of a pairwise reduction counts the combine of the two words. -/
theorem exec_pairwise_counts {i : Instr} {g : Word → Word → Word} {s : State} {y : Word}
    (hr : reductionOf i = some (g, true)) (hp : s.phase = .busy) (hm : s.memReady = true) (hsel : s.sel = .b)
    (hy : s.mem.word? (elementAddress i.b i.start s.i.toNat) = some y) :
    exec i s = .next (counted (popcount (g s.waReg y)) i.count (sent (elementAddress i.b i.start s.i.toNat) s)) := by
  have hnext := nextAddress_b hsel i.a i.b i.start
  rw [exec_reduction_busy hr hp, readStep_data_count hm g i.count (by simp [hsel]) (hnext ▸ hy), hnext, if_pos rfl,
    countElement_eq_counted]
  rfl

/-- Settles O26: ACCEPT of a reduction whose window is not empty. -/
theorem reductionStarts : Obligations.ReductionStarts := by
  intro s i hi hcount hp
  obtain ⟨g, p, hr⟩ := exists_reductionOf hi
  have hne : i.count.toNat ≠ 0 := fun h => hcount (BitVec.eq_of_toNat_eq h)
  rw [exec_reduction_idle hr hp, acceptReduction_starts hne]

/-- Settles O27: `POPARR` is not pairwise, so its one READ of an element counts the word. -/
theorem poparrCountsTheWord : Obligations.PoparrCountsTheWord := by
  intro s a b start count d hp hm hsel hd
  have hnext := nextAddress_a hsel a b start
  have hexec := exec_reduction_busy (i := .poparr a b start count) rfl hp
  rw [hexec, readStep_data_count hm combineArr _ (by simp) (hnext.symm ▸ hd), countElement_eq_counted]
  exact congrArg (fun wa => Host.Outcome.next (counted (popcount d) count (sent wa s))) hnext

/-- Settles O28: with array A next, the word of a pairwise reduction is held. -/
theorem pairwiseReadsArrayAFirst : Obligations.PairwiseReadsArrayAFirst := by
  intro s a b start count d i hi hp hm hsel hd
  obtain ⟨g, hr, ha, hstart⟩ : ∃ g, reductionOf i = some (g, true) ∧ i.a = a ∧ i.start = start := by
    simp only [List.mem_cons, List.not_mem_nil, or_false] at hi
    rcases hi with rfl | rfl | rfl | rfl <;> exact ⟨_, rfl, rfl, rfl⟩
  subst ha hstart
  have hnext := nextAddress_a hsel i.a i.b i.start
  rw [exec_reduction_busy hr hp, readStep_data_first hm g i.count hsel (hnext ▸ hd), hnext]
  rfl

/-- Settles O29: each of the four combines of R121, by the one rule of a pairwise READ of array B. -/
theorem pairwiseCountsTheCombine : Obligations.PairwiseCountsTheCombine := by
  intro s a b start count y hp hm hsel hy
  exact ⟨exec_pairwise_counts (i := .popandn a b start count) (g := combineAndn) rfl hp hm hsel hy,
    exec_pairwise_counts (i := .popint a b start count) (g := combineInt) rfl hp hm hsel hy,
    exec_pairwise_counts (i := .popuni a b start count) (g := combineUni) rfl hp hm hsel hy,
    exec_pairwise_counts (i := .popxor a b start count) (g := combineXor) rfl hp hm hsel hy⟩

/-- Settles O30: the read that answers `Err` is the last one sent. -/
theorem failedReadEndsTheReduction : Obligations.FailedReadEndsTheReduction := by
  intro s i hi hp hm herr
  obtain ⟨g, p, hr⟩ := exists_reductionOf hi
  rw [exec_reduction_busy hr hp, readStep_err hm g p i.count herr]
  rfl

/-- Settles O38: the unit's turn in `DONE` is DELIVER. -/
theorem deliverMovesTheResponse : Obligations.DeliverMovesTheResponse := by
  intro s s₀ ht hp hready
  rw [step_unit ht, unitStep_done (ht.phase.trans hp), deliver_ready (ht.rspReady.trans hready), ht.rsps, ht.out]

/-- Settles O42: the fields of the reset state. -/
theorem resetState : Obligations.ResetState := ⟨rfl, rfl, rfl, rfl⟩

/-- Settles O43: a listed action is the step, and `eventStep` changes its one field. -/
theorem agentActions : Obligations.AgentActions := by
  intro s rest
  exact ⟨fun _ h => step_event h, fun _ h => step_event h, fun _ h => step_event h, fun _ _ h => step_event h⟩

theorem decode_of_decodeTableWord {nbits w : Nat} {i : Instr} (h : decodeTableWord nbits w = some i) :
    decode (packetOfTableWord nbits w) = .ok i := by
  unfold decodeTableWord at h
  split at h
  · next i' hd => rw [hd, Option.some.inj h]
  · cases h

/-- Settles O2: the unit's turn, which `withFetchWord` lists first, accepts the packet it puts first. -/
theorem fetchWordRunsFirst : Obligations.FetchWordRunsFirst := by
  intro s nbits w i h
  rw [step_unit (.inr ⟨s.agenda, rfl, rfl⟩)]
  exact unitStep_idle_ok rfl rfl (decode_of_decodeTableWord h)

end Sys2Proof.Machine
end

section
/-! PROOFS. What the unit's steps leave unchanged (10_state.md R27 to R31, 20_memory.md R44, 70_reset_and_hazards.md
R173, R177). -/

namespace Sys2Proof.Machine

/-- An outcome is one next state. -/
theorem next_unique {o : Host.Outcome State Fault Refusal} {t u : State} (ht : o = .next t) (hu : o = .next u) :
    t = u := Host.Outcome.next.inj (ht.symm.trans hu)

/-- R29, R62: a READ sends nothing or the address of the next word. -/
theorem readStep_reads (g : Word → Word → Word) (p : Bool) (a b : Word) (start count : Word32) (s : State) :
    (readStep g p a b start count s).reads = s.reads ∨
      (readStep g p a b start count s).reads = s.reads ++ [nextAddress a b start s] := by
  rcases readStep_cases g p a b start count s with ⟨-, h⟩ | ⟨-, -, h⟩ | ⟨-, -, -, d, -, h⟩ | ⟨-, -, d, -, h⟩
  · exact .inl (by rw [h])
  · exact .inr (by rw [h]; rfl)
  · exact .inr (by rw [h]; rfl)
  · obtain ⟨-, -, -, -, hreads, -⟩ := countElement_frame (if p then g s.waReg d else g d 0#64) count
      (sendRead (nextAddress a b start s) s)
    exact .inr (by rw [h, hreads]; rfl)

/-- R29: a READ writes the response only when it ends the operation. -/
theorem readStep_out {g : Word → Word → Word} {p : Bool} {a b : Word} {start count : Word32} {s : State}
    (h : (readStep g p a b start count s).phase = .busy) : (readStep g p a b start count s).out = s.out := by
  rcases readStep_cases g p a b start count s with ⟨-, hr⟩ | ⟨-, -, hr⟩ | ⟨-, -, -, d, -, hr⟩ | ⟨-, -, d, -, hr⟩
  · rw [hr]
  · simp [hr] at h
  · simp [hr]
  · by_cases hlast : ((sendRead (nextAddress a b start s) s).i + 1#33).toNat = count.toNat
    · simp [hr, countElement_last hlast] at h
    · simp [hr, countElement_more hlast]

/-- What DELIVER leaves alone: all of the record but the phase, and every channel but that of the responses. -/
theorem deliver_frame (s : State) :
    (deliver s).cur = s.cur ∧ (deliver s).i = s.i ∧ (deliver s).sel = s.sel ∧ (deliver s).waReg = s.waReg ∧
      (deliver s).acc = s.acc ∧ (deliver s).out = s.out ∧ (deliver s).reqs = s.reqs ∧ (deliver s).reads = s.reads ∧
      (deliver s).rspReady = s.rspReady ∧ (deliver s).memReady = s.memReady ∧ (deliver s).mem = s.mem ∧
      (deliver s).agenda = s.agenda ∧ (deliver s).config = s.config ∧ (deliver s).freeCount = s.freeCount := by
  rcases deliver_cases s with h | h <;> simp [h]

/-- Settles O44: ACCEPT, READ and DELIVER in turn; a scalar operation has no READ. -/
theorem execFrame : Obligations.ExecFrame := by
  intro i s t h
  rcases exec_cases i s with ⟨v, -, hidle, hbusy, hdone⟩ | ⟨g, p, hr, hidle, hbusy, hdone⟩
  · cases hp : s.phase with
    | idle => obtain rfl := next_unique (hidle hp) h; simp
    | busy => simp [hbusy hp] at h
    | done =>
      obtain rfl := next_unique (hdone hp) h
      simp [deliver_frame, deliver_cases]
  · obtain ⟨hred, -⟩ := reductionOf_pairwise hr
    cases hp : s.phase with
    | idle =>
      obtain rfl := next_unique (hidle hp) h
      by_cases hc : i.count.toNat = 0
      · simp [acceptReduction_empty hc, hred]
      · simp [acceptReduction_starts hc, hred]
    | busy =>
      obtain rfl := next_unique (hbusy hp) h
      have hreads : (readStep g p i.a i.b i.start i.count s).reads = s.reads ∨
          ∃ wa, (readStep g p i.a i.b i.start i.count s).reads = s.reads ++ [wa] :=
        (readStep_reads ..).imp_right fun h => ⟨_, h⟩
      simpa [readStep_frame, hred, hreads] using readStep_out
    | done =>
      obtain rfl := next_unique (hdone hp) h
      simp [deliver_frame, deliver_cases]

/-- R27, R28: while an operation is in flight the unit's step keeps its packet and takes no request. -/
theorem unitStep_in_flight {s t : State} (hp : s.phase ≠ .idle) (h : unitStep s = .next t) :
    t.cur = s.cur ∧ t.reqs = s.reqs := by
  cases hph : s.phase with
  | idle => exact absurd hph hp
  | busy =>
    cases hd : decode s.cur with
    | ok i =>
      have hexec := (unitStep_busy_ok hph hd).symm.trans h
      obtain ⟨-, hreqs, -, -, -, -, -, -, -, -, -, -, hcur, -⟩ := execFrame i s t hexec
      exact ⟨hcur hp, hreqs⟩
    | error e => simp [unitStep_busy_illegal hph hd] at h
  | done =>
    obtain rfl := next_unique (unitStep_done hph) h
    simp [deliver_frame]

/-- Settles O39: each phase's waiting rule, and `unitStep_in_flight`. -/
theorem unitWaits : Obligations.UnitWaits := by
  refine fun s => ⟨unitStep_idle_none, fun i hp hm hd hi => ?_, fun hp hready => ?_,
    fun t hp h => (unitStep_in_flight hp h).2⟩
  · obtain ⟨g, p, hr⟩ := exists_reductionOf hi
    rw [unitStep_busy_ok hp hd, exec_reduction_busy hr hp, readStep_waits hm]
  · rw [unitStep_done hp, deliver_waits hready]

/-- Settles O40: of the actions of the agents, only reset touches the record. -/
theorem capturedRequestIsFixed : Obligations.CapturedRequestIsFixed := by
  intro s t hp hreset h
  rcases step_cases s with ⟨s₀, ht, hs⟩ |
    ⟨rest, ⟨r, -, hs⟩ | ⟨b, -, hs⟩ | ⟨b, -, hs⟩ | ⟨wa, x, -, hs⟩ | ⟨ha, -⟩⟩
  · rw [← ht.cur]
    exact (unitStep_in_flight (ht.phase.symm ▸ hp) (hs.symm.trans h)).1
  · rw [← next_unique hs h]
  · rw [← next_unique hs h]
  · rw [← next_unique hs h]
  · rw [← next_unique hs h]
  · exact absurd ha (hreset rest)

end Sys2Proof.Machine
end

section
/-! PROOFS. The invariant of the unit's record and of memory (10_state.md R27, 60_exceptions.md R150, R151). -/

namespace Sys2Proof.Machine

/-! ### The total of a reduction (R120, R123) -/

theorem popcount_le {w : Nat} (v : BitVec w) : popcount v ≤ w := by
  have h := List.sum_le_card_nsmul ((List.range w).map fun k => (v.getLsbD k).toNat) 1
    (by simp only [List.mem_map]; rintro _ ⟨k, -, rfl⟩; exact Bool.toNat_le _)
  simpa [popcount] using h

/-- R123: the index of the element after one inside the window does not wrap. -/
theorem next_index_toNat {i : BitVec 33} {count : Word32} (h : i.toNat < count.toNat) :
    (i + 1#33).toNat = i.toNat + 1 := by
  have := count.isLt; rw [BitVec.toNat_add]; simp only [BitVec.toNat_ofNat]; omega

/-- R123: counting one more element of a window does not wrap the total. -/
theorem next_total_le {acc : Word} {i : BitVec 33} {count : Word32} (e : Word) (h : i.toNat < count.toNat)
    (hacc : acc.toNat ≤ 64 * i.toNat) :
    (acc + BitVec.ofNat 64 (popcount e)).toNat ≤ 64 * (i + 1#33).toNat := by
  have := popcount_le e; have := count.isLt
  rw [next_index_toNat h, BitVec.toNat_add, BitVec.toNat_ofNat]; omega

/-! ### The response in `DONE`, by what the packet decodes to -/

theorem doneInv_illegal {s : State} {e : DecodeError} (hd : decode s.cur = .error e) :
    DoneInv s ↔ s.out = responseOf statusIllegalOp 0#64 := by simp only [DoneInv, hd]

theorem doneInv_scalar {s : State} {i : Instr} {v : Word} (hd : decode s.cur = .ok i)
    (hv : scalarOf s.config i = some v) : DoneInv s ↔ s.out = responseOf statusOk v := by simp only [DoneInv, hd, hv]

theorem doneInv_reduction {s : State} {i : Instr} (hd : decode s.cur = .ok i) (hi : isReduction i = true) :
    DoneInv s ↔
      (responseStatus s.out = statusOk ∧ (responseValue s.out).toNat ≤ 64 * i.count.toNat) ∨
        (responseStatus s.out = statusAccessFault ∧ inWindow s.cur (responseValue s.out)) := by
  obtain ⟨g, p, hr⟩ := exists_reductionOf hi
  rcases scalar_or_reduction s.config i with ⟨v, -, hn⟩ | ⟨_, _, -, hv⟩
  · rw [hr] at hn; cases hn
  · simp only [DoneInv, hd, hv]

/-- R150: there are three status codes. -/
theorem DoneInv.status_le {s : State} (h : DoneInv s) : (responseStatus s.out).toNat ≤ 2 := by
  cases hd : decode s.cur with
  | error e => rw [(doneInv_illegal hd).1 h]; simp [statusIllegalOp]
  | ok i =>
    rcases scalar_or_reduction s.config i with ⟨v, hv, -⟩ | ⟨g, p, hr, -⟩
    · rw [(doneInv_scalar hd hv).1 h]; simp [statusOk]
    · rcases (doneInv_reduction hd (reductionOf_pairwise hr).1).1 h with ⟨hs, -⟩ | ⟨hs, -⟩ <;> rw [hs] <;> decide

/-! ### Every step of the unit keeps it -/

/-- A state in `DONE` meets the invariant when its response is right and nothing else that it speaks of changed. -/
theorem Inv.of_done {s t : State} (h : Inv s) (hp : t.phase = .done) (hdone : DoneInv t) (hmem : t.mem = s.mem)
    (hrsps : t.rsps = s.rsps) : Inv t where
  mem := hmem ▸ h.mem
  busy hb := by simp [hp] at hb
  done _ := hdone
  rsps := hrsps ▸ h.rsps

/-- The same for a state in `BUSY`. -/
theorem Inv.of_busy {s t : State} (h : Inv s) (hp : t.phase = .busy) (hbusy : BusyInv t) (hmem : t.mem = s.mem)
    (hrsps : t.rsps = s.rsps) : Inv t where
  mem := hmem ▸ h.mem
  busy _ := hbusy
  done hd := by simp [hp] at hd
  rsps := hrsps ▸ h.rsps

theorem acceptIllegal_inv {s : State} {r : Request} {e : DecodeError} (h : Inv s) (hd : decode r = .error e) :
    Inv (acceptIllegal r s) :=
  h.of_done rfl (Iff.mpr (doneInv_illegal hd) rfl) rfl rfl

theorem acceptScalar_inv {s : State} {i : Instr} {v : Word} (h : Inv s) (hv : scalarOf s.config i = some v) :
    Inv (acceptScalar (encode i) v s) :=
  h.of_done rfl (Iff.mpr (doneInv_scalar (decode_encode i) hv) rfl) rfl rfl

theorem acceptReduction_inv {s : State} {i : Instr} (h : Inv s) (hi : isReduction i = true) :
    Inv (acceptReduction (encode i) i.count s) := by
  by_cases hc : i.count.toNat = 0
  · rw [acceptReduction_empty hc]
    exact h.of_done rfl (Iff.mpr (doneInv_reduction (decode_encode i) hi) (.inl (by simp))) rfl rfl
  · rw [acceptReduction_starts hc]
    refine h.of_busy rfl ⟨i, decode_encode i, hi, ?_, by simp, by simp⟩ rfl rfl
    simpa using Nat.pos_of_ne_zero hc

/-- R41, R43: what the record of a reduction in flight names next is a word of its window. -/
theorem nextAddress_inWindow {s : State} {i : Instr} (hd : decode s.cur = .ok i) (hi : isReduction i = true)
    (hlt : s.i.toNat < i.count.toNat) (hsel : s.sel = .b → pairwiseInstr i = true) :
    inWindow s.cur (nextAddress i.a i.b i.start s) := by
  refine ⟨i, hd, hi, s.i.toNat, hlt, ?_⟩
  cases hs : s.sel with
  | a => exact .inl (nextAddress_a hs ..)
  | b => exact .inr ⟨hsel hs, nextAddress_b hs ..⟩

/-- R29, R123: counting an element keeps the bound on the total, in `BUSY` and in the response. -/
theorem countElement_inv {s : State} {i : Instr} (h : Inv s) (hp : s.phase = .busy) (hd : decode s.cur = .ok i)
    (e : Word) : Inv (countElement e i.count s) := by
  obtain ⟨i', hd', hi, hlt, -, hacc⟩ := h.busy hp
  obtain rfl : i' = i := Except.ok.inj (hd'.symm.trans hd)
  have htotal := next_total_le e hlt hacc
  by_cases hlast : (s.i + 1#33).toNat = i'.count.toNat
  · rw [countElement_last hlast]
    rw [hlast] at htotal
    exact h.of_done rfl (Iff.mpr (doneInv_reduction hd hi) (.inl (by simpa using htotal))) rfl rfl
  · rw [countElement_more hlast]
    refine h.of_busy hp ⟨i', hd, hi, ?_, by simp, htotal⟩ rfl rfl
    have := next_index_toNat hlt
    simp only; omega

theorem sendRead_inv {s : State} (h : Inv s) (wa : Word) : Inv (sendRead wa s) := ⟨h.mem, h.busy, h.done, h.rsps⟩

theorem readStep_inv {s : State} {i : Instr} {g : Word → Word → Word} {p : Bool} (h : Inv s) (hp : s.phase = .busy)
    (hd : decode s.cur = .ok i) (hr : reductionOf i = some (g, p)) :
    Inv (readStep g p i.a i.b i.start i.count s) := by
  obtain ⟨i', hd', hi, hlt, hsel, hacc⟩ := h.busy hp
  obtain rfl : i' = i := Except.ok.inj (hd'.symm.trans hd)
  rcases readStep_cases g p i'.a i'.b i'.start i'.count s with
    ⟨-, hw⟩ | ⟨-, -, herr⟩ | ⟨-, -, hpair, d, -, hfirst⟩ | ⟨-, -, d, -, hcount⟩
  · rwa [hw]
  · rw [herr]
    have hwin := nextAddress_inWindow hd hi hlt hsel
    exact h.of_done rfl (Iff.mpr (doneInv_reduction hd hi) (.inr (by simpa using hwin))) rfl rfl
  · rw [hfirst]
    exact h.of_busy hp ⟨i', hd, hi, hlt, fun _ => hpair ▸ (reductionOf_pairwise hr).2, hacc⟩ rfl rfl
  · rw [hcount]
    exact countElement_inv (sendRead_inv h _) hp hd _

theorem deliver_inv {s : State} (h : Inv s) (hp : s.phase = .done) : Inv (deliver s) := by
  rcases deliver_cases s with hw | hd
  · rwa [hw]
  · rw [hd]
    refine ⟨h.mem, by simp, by simp, fun r hr => ?_⟩
    rcases List.mem_append.1 hr with hr | hr
    · exact h.rsps r hr
    · exact List.mem_singleton.1 hr ▸ (h.done hp).status_le

/-- Every operation keeps the invariant in every phase; not `IDLE`, the operation is the one captured. -/
theorem exec_inv {s t : State} {i : Instr} (h : Inv s) (hd : s.phase ≠ .idle → decode s.cur = .ok i)
    (ht : exec i s = .next t) : Inv t := by
  rcases exec_cases i s with ⟨v, hv, hidle, hbusy, -⟩ | ⟨g, p, hr, hidle, hbusy, -⟩ <;> cases hp : s.phase
  case inl.idle => exact next_unique (hidle hp) ht ▸ acceptScalar_inv h hv
  case inl.busy => simp [hbusy hp] at ht
  case inr.idle => exact next_unique (hidle hp) ht ▸ acceptReduction_inv h (reductionOf_pairwise hr).1
  case inr.busy => exact next_unique (hbusy hp) ht ▸ readStep_inv h hp (hd (by simp [hp])) hr
  case inl.done | inr.done => exact next_unique (exec_done hp i) ht ▸ deliver_inv h hp

theorem unitStep_inv {s t : State} (h : Inv s) (ht : unitStep s = .next t) : Inv t := by
  cases hp : s.phase with
  | idle =>
    cases hreqs : s.reqs with
    | nil => exact next_unique (unitStep_idle_none hp hreqs) ht ▸ h
    | cons r rest =>
      have h' : Inv { s with reqs := rest } := ⟨h.mem, h.busy, h.done, h.rsps⟩
      cases hd : decode r with
      | ok i => exact exec_inv h' (absurd hp) ((unitStep_idle_ok hp hreqs hd).symm.trans ht)
      | error e => exact next_unique (unitStep_idle_illegal hp hreqs hd) ht ▸ acceptIllegal_inv h' hd
  | busy =>
    obtain ⟨i, hd, -⟩ := h.busy hp
    exact exec_inv h (fun _ => hd) ((unitStep_busy_ok hp hd).symm.trans ht)
  | done => exact next_unique (unitStep_done hp) ht ▸ deliver_inv h hp

theorem UnitTurn.inv {s s₀ : State} (ht : UnitTurn s s₀) (h : Inv s) : Inv s₀ := by
  rw [ht.eq_agenda]; exact ⟨h.mem, h.busy, h.done, h.rsps⟩

/-- Settles O48: the unit's step by `unitStep_inv`; of the agents, the platform keeps memory canonical, reset leaves
nothing of the record to speak of, and the others touch nothing that the invariant speaks of. -/
theorem stepKeepsTheInvariant : Obligations.StepKeepsTheInvariant := by
  intro s t h ht
  rcases step_cases s with ⟨s₀, hturn, hs⟩ |
    ⟨rest, ⟨r, -, hs⟩ | ⟨b, -, hs⟩ | ⟨b, -, hs⟩ | ⟨wa, x, -, hs⟩ | ⟨-, hs⟩⟩
  · exact unitStep_inv (hturn.inv h) (hs.symm.trans ht)
  · exact next_unique hs ht ▸ ⟨h.mem, h.busy, h.done, h.rsps⟩
  · exact next_unique hs ht ▸ ⟨h.mem, h.busy, h.done, h.rsps⟩
  · exact next_unique hs ht ▸ ⟨h.mem, h.busy, h.done, h.rsps⟩
  · exact next_unique hs ht ▸ ⟨wf_answer h.mem wa x, h.busy, h.done, h.rsps⟩
  · exact next_unique hs ht ▸ ⟨h.mem, by simp, by simp, h.rsps⟩

/-- Settles O47: memory lists nothing, the phase is `IDLE` and no response was delivered. -/
theorem invariantAtReset : Obligations.InvariantAtReset :=
  ⟨wf_nil, by simp [State.reset], by simp [State.reset], by simp [State.reset]⟩

end Sys2Proof.Machine
end

section
/-! PROOFS. Nothing of a finished operation is seen by a later one (10_state.md R20, R27): every step keeps the
agreement of two states on the fields that are valid in their phase. -/

namespace Sys2Proof.Machine

/-- What `Agree` asks for in every phase: the channels, memory, the agenda and the configuration. -/
def outside (s : State) :=
  (s.reqs, s.rsps, s.reads, s.rspReady, s.memReady, s.mem, s.agenda, s.config)

theorem Agree.outside_eq {s t : State} (h : Agree s t) : outside s = outside t := by
  simp only [outside, h.reqs, h.rsps, h.reads, h.rspReady, h.memReady, h.mem, h.agenda, h.config]

theorem agree_idle {s t : State} (hs : s.phase = .idle) (ht : t.phase = .idle) (ho : outside s = outside t) :
    Agree s t := by
  simp only [outside, Prod.mk.injEq] at ho
  constructor <;> simp [hs, ht, ho]

theorem agree_busy {s t : State} (hs : s.phase = .busy) (ht : t.phase = .busy) (ho : outside s = outside t)
    (hcur : s.cur = t.cur) (hi : s.i = t.i) (hsel : s.sel = t.sel) (hacc : s.acc = t.acc)
    (hwa : s.sel = .b → s.waReg = t.waReg) : Agree s t := by
  simp only [outside, Prod.mk.injEq] at ho
  constructor <;> simp [hs, ht, ho, hcur, hi, hsel, hacc]
  exact hsel ▸ hwa

theorem agree_done {s t : State} (hs : s.phase = .done) (ht : t.phase = .done) (ho : outside s = outside t)
    (hcur : s.cur = t.cur) (hout : s.out = t.out) : Agree s t := by
  simp only [outside, Prod.mk.injEq] at ho
  constructor <;> simp [hs, ht, ho, hcur, hout]

/-! ### The unit's steps -/

/-- R150: an operation that ends alike on the same request is seen alike. -/
theorem endOperation_agree {s t : State} (ho : outside s = outside t) (hcur : s.cur = t.cur) (status : Byte)
    (value : Word) : Agree (endOperation status value s) (endOperation status value t) :=
  agree_done rfl rfl ho hcur rfl

theorem acceptIllegal_agree {s t : State} (ho : outside s = outside t) (r : Request) :
    Agree (acceptIllegal r s) (acceptIllegal r t) :=
  endOperation_agree (s := capture r s) (t := capture r t) ho rfl ..

theorem acceptScalar_agree {s t : State} (ho : outside s = outside t) (r : Request) (value : Word) :
    Agree (acceptScalar r value s) (acceptScalar r value t) :=
  endOperation_agree (s := capture r s) (t := capture r t) ho rfl ..

theorem acceptReduction_agree {s t : State} (ho : outside s = outside t) (r : Request) (count : Word32) :
    Agree (acceptReduction r count s) (acceptReduction r count t) := by
  by_cases hc : count.toNat = 0
  · rw [acceptReduction_empty hc, acceptReduction_empty hc]
    exact agree_done rfl rfl ho rfl rfl
  · rw [acceptReduction_starts hc, acceptReduction_starts hc]
    exact agree_busy rfl rfl ho rfl rfl rfl rfl (by simp)

theorem countElement_agree {s t : State} (h : Agree s t) (hp : s.phase = .busy) (e : Word) (count : Word32) :
    Agree (countElement e count s) (countElement e count t) := by
  have hcur := h.cur (by simp [hp])
  by_cases hlast : (s.i + 1#33).toNat = count.toNat
  · rw [countElement_last hlast, countElement_last (h.i hp ▸ hlast), h.i hp, h.acc hp]
    exact agree_done rfl rfl h.outside_eq hcur rfl
  · rw [countElement_more hlast, countElement_more (h.i hp ▸ hlast), h.i hp, h.acc hp]
    exact agree_busy hp (h.phase ▸ hp) h.outside_eq hcur rfl rfl rfl (by simp)

/-- R29: the held word is used only with array B next, where it is valid. -/
theorem takeAnswer_agree {s t : State} (h : Agree s t) (hp : s.phase = .busy) (g : Word → Word → Word) (p : Bool)
    (count : Word32) (wa : Word) (answer : MemAnswer) :
    Agree (takeAnswer g p count wa answer s) (takeAnswer g p count wa answer t) := by
  have hcur := h.cur (by simp [hp])
  have hsel := h.sel hp
  cases answer with
  | err => exact endOperation_agree h.outside_eq hcur ..
  | data d =>
    by_cases hfirst : s.sel = .a ∧ p = true
    · obtain ⟨hs, rfl⟩ := hfirst
      rw [takeAnswer_first hs, takeAnswer_first (hsel ▸ hs)]
      exact agree_busy hp (h.phase ▸ hp) h.outside_eq hcur (h.i hp) rfl (h.acc hp) fun _ => rfl
    · have hword : (if p then g s.waReg d else g d 0#64) = if p then g t.waReg d else g d 0#64 := by
        cases p with
        | false => rfl
        | true =>
          cases hs : s.sel with
          | a => exact absurd ⟨hs, rfl⟩ hfirst
          | b => rw [h.waReg hp hs]
      rw [takeAnswer_count hfirst, takeAnswer_count (hsel ▸ hfirst), hword]
      exact countElement_agree h hp ..

theorem sendRead_agree {s t : State} (h : Agree s t) (wa : Word) : Agree (sendRead wa s) (sendRead wa t) :=
  { h with reads := congrArg (· ++ [wa]) h.reads }

theorem readStep_agree {s t : State} (h : Agree s t) (hp : s.phase = .busy) (g : Word → Word → Word) (p : Bool)
    (a b : Word) (start count : Word32) :
    Agree (readStep g p a b start count s) (readStep g p a b start count t) := by
  have hnext : nextAddress a b start s = nextAddress a b start t := by
    simp only [nextAddress, h.sel hp, h.i hp]
  unfold readStep
  rw [hnext, h.mem, h.memReady]
  split
  · exact takeAnswer_agree (sendRead_agree h _) hp ..
  · exact h

theorem deliver_agree {s t : State} (h : Agree s t) (hp : s.phase = .done) : Agree (deliver s) (deliver t) := by
  unfold deliver
  rw [h.rspReady]
  split
  · refine agree_idle rfl rfl ?_
    simp only [outside, h.reqs, h.rsps, h.out hp, h.reads, h.memReady, h.mem, h.agenda, h.config]
  · exact h

/-- Two outcomes that look the same: if the first is a next state, so is the second, and the two agree. -/
def OutcomesAgree (o o' : Host.Outcome State Fault Refusal) : Prop :=
  ∀ s', o = .next s' → ∃ t', o' = .next t' ∧ Agree s' t'

theorem outcomesAgree_next {s t : State} (h : Agree s t) : OutcomesAgree (.next s) (.next t) := by
  rintro _ ⟨rfl⟩; exact ⟨t, rfl, h⟩

theorem exec_agree {s t : State} (h : Agree s t) (i : Instr) : OutcomesAgree (exec i s) (exec i t) := by
  rcases scalar_or_reduction s.config i with ⟨v, hv, -⟩ | ⟨g, p, hr, -⟩
  · rw [exec_scalar hv, exec_scalar (h.config ▸ hv)]
    unfold scalarStep
    rw [← h.phase]
    cases hp : s.phase with
    | idle => exact outcomesAgree_next (acceptScalar_agree h.outside_eq ..)
    | busy => rintro _ ⟨⟩
    | done => exact outcomesAgree_next (deliver_agree h hp)
  · rw [exec_reduction hr, exec_reduction hr]
    unfold reductionStep
    rw [← h.phase]
    cases hp : s.phase with
    | idle => exact outcomesAgree_next (acceptReduction_agree h.outside_eq ..)
    | busy => exact outcomesAgree_next (readStep_agree h hp ..)
    | done => exact outcomesAgree_next (deliver_agree h hp)

theorem unitStep_agree {s t : State} (h : Agree s t) : OutcomesAgree (unitStep s) (unitStep t) := by
  cases hp : s.phase with
  | idle =>
    have hpt : t.phase = .idle := h.phase ▸ hp
    cases hreqs : s.reqs with
    | nil =>
      rw [unitStep_idle_none hp hreqs, unitStep_idle_none hpt (h.reqs ▸ hreqs)]
      exact outcomesAgree_next h
    | cons r rest =>
      have hrt : t.reqs = r :: rest := h.reqs ▸ hreqs
      have h' : Agree { s with reqs := rest } { t with reqs := rest } := { h with reqs := rfl }
      cases hd : decode r with
      | ok i => rw [unitStep_idle_ok hp hreqs hd, unitStep_idle_ok hpt hrt hd]; exact exec_agree h' i
      | error e =>
        rw [unitStep_idle_illegal hp hreqs hd, unitStep_idle_illegal hpt hrt hd]
        exact outcomesAgree_next (acceptIllegal_agree h'.outside_eq r)
  | busy =>
    have hpt : t.phase = .busy := h.phase ▸ hp
    have hcur := h.cur (by simp [hp])
    cases hd : decode s.cur with
    | ok i => rw [unitStep_busy_ok hp hd, unitStep_busy_ok hpt (hcur ▸ hd)]; exact exec_agree h i
    | error e => rw [unitStep_busy_illegal hp hd]; rintro _ ⟨⟩
  | done =>
    rw [unitStep_done hp, unitStep_done (h.phase ▸ hp)]
    exact outcomesAgree_next (deliver_agree h hp)

/-- The actions of the agenda: an agent's action changes a field outside the record alike, and after reset nothing of
the record is valid. -/
theorem eventStep_agree {s t : State} (h : Agree s t) (e : Event) : OutcomesAgree (eventStep e s) (eventStep e t) := by
  cases e with
  | unit => exact unitStep_agree h
  | offer r => exact outcomesAgree_next { h with reqs := congrArg (· ++ [r]) h.reqs }
  | acceptResponses ready => exact outcomesAgree_next { h with rspReady := rfl }
  | answerReads ready => exact outcomesAgree_next { h with memReady := rfl }
  | memory wa answer => exact outcomesAgree_next { h with mem := congrArg (·.answer wa answer) h.mem }
  | reset => exact outcomesAgree_next (agree_idle rfl rfl h.outside_eq)

theorem step_agree {s t : State} (h : Agree s t) : OutcomesAgree (step s) (step t) := by
  cases ha : s.agenda with
  | nil => rw [step_quiet ha, step_quiet (h.agenda ▸ ha)]; exact unitStep_agree h
  | cons e rest =>
    rw [step_event ha, step_event (h.agenda ▸ ha)]
    exact eventStep_agree (s := { s with agenda := rest }) (t := { t with agenda := rest }) { h with agenda := rfl } e

/-- Settles O50, phase by phase and action by action (`step_agree`). -/
theorem unitIsStateless : Obligations.UnitIsStateless := fun _ _ _ h hs => step_agree h _ hs

end Sys2Proof.Machine
end

section
/-! PROOFS. The machine's ACCEPT and READ are the pseudocode of 10_state.md R28 and R29, and every packet is answered
(R20, 42_popcount_reductions.md R122, 70_reset_and_hazards.md R178). -/

namespace Sys2Proof.Machine

/-! ### Refinement of the pseudocode -/

/-- R28: ACCEPT, by what the packet decodes to. -/
theorem unitStep_accept {s : State} {r : Request} {rest : List Request} (hp : s.phase = .idle)
    (hreqs : s.reqs = r :: rest) : unitStep s = .next (specAccept r { s with reqs := rest }) := by
  unfold specAccept
  rcases operation_cases s.config r with ⟨hd, hop⟩ | ⟨i, f, hd, hop, hv⟩ |
    ⟨i, g, p, hd, hop, hr, -, -, -, hcount⟩
  · rw [unitStep_idle_illegal hp hreqs hd]
    simp only [hop]; rfl
  · rw [unitStep_idle_ok hp hreqs hd, exec_scalar_idle (s := { s with reqs := rest }) hv hp, encode_of_decode hd]
    simp only [hop]; rfl
  · rw [unitStep_idle_ok hp hreqs hd, exec_reduction_idle (s := { s with reqs := rest }) hr hp, encode_of_decode hd,
      hcount]
    simp only [hop]; rfl

/-- R29: in `BUSY` on a reduction the unit reads for the request in `cur`. -/
theorem unitStep_read {s : State} {g : Word → Word → Word} {p : Bool} (hp : s.phase = .busy)
    (hop : operationOf s.config s.cur.op = .reduction g p) :
    unitStep s = .next (readStep g p s.cur.a s.cur.b s.cur.start s.cur.count s) := by
  rcases operation_cases s.config s.cur with ⟨-, hop'⟩ | ⟨i, f, -, hop', -⟩ |
    ⟨i, g', p', hd, hop', hr, ha, hb, hstart, hcount⟩ <;> rw [hop] at hop'
  case inl => cases hop'
  case inr.inl => cases hop'
  case inr.inr =>
    obtain ⟨rfl, rfl⟩ := Operation.reduction.inj hop'
    rw [unitStep_busy_ok hp hd, exec_reduction_busy hr hp, ha, hb, hstart, hcount]

theorem nextAddress_eq_spec (s : State) : nextAddress s.cur.a s.cur.b s.cur.start s = specReadAddress s := by
  simp only [nextAddress, elementAddress, specReadAddress, BitVec.ofNat_toNat]

/-- R29: READ with the platform answering, line by line. -/
theorem readStep_eq_spec {s : State} (hm : s.memReady = true) (g : Word → Word → Word) (p : Bool) :
    readStep g p s.cur.a s.cur.b s.cur.start s.cur.count s = specRead g p s := by
  rcases readStep_cases g p s.cur.a s.cur.b s.cur.start s.cur.count s with
    ⟨hw, -⟩ | ⟨-, hnone, h⟩ | ⟨-, hsel, rfl, d, hd, h⟩ | ⟨-, hsel, d, hd, h⟩
  · rw [hm] at hw; cases hw
  · rw [nextAddress_eq_spec] at hnone h
    rw [h]; simp only [specRead, hnone]; rfl
  · rw [nextAddress_eq_spec] at hd h
    rw [h]; simp only [specRead, hd, hsel, and_self, if_true]; rfl
  · rw [nextAddress_eq_spec] at hd h
    rw [h]; simp only [specRead, hd, if_neg hsel]; rfl

/-- Settles O10: `unitStep_accept`, and `unitStep_read` with `readStep_eq_spec`. -/
theorem stepsRefineThePseudocode : Obligations.StepsRefineThePseudocode := by
  refine fun s => ⟨fun r rest => unitStep_accept, fun g p hp hm hop => ?_⟩
  rw [unitStep_read hp hop, readStep_eq_spec hm]

/-! ### The loop of R122, turn by turn -/

section
variable {m : Memory} {g : Word → Word → Word} {p : Bool} {a b x y acc : Word} {start : Word32} {n j : Nat}

theorem reduceFrom_err_a (hx : m.word? (elementAddress a start j) = none) :
    reduceFrom m g p a b start (n + 1) j acc = responseOf statusAccessFault (elementAddress a start j) := by
  simp only [reduceFrom, (memRead_err_iff ..).2 hx]

theorem reduceFrom_single (hx : m.word? (elementAddress a start j) = some x) :
    reduceFrom m g false a b start (n + 1) j acc =
      reduceFrom m g false a b start n (j + 1) (acc + BitVec.ofNat 64 (popcount (g x 0#64))) := by
  simp only [reduceFrom, (memRead_data_iff ..).2 hx, Bool.false_eq_true, if_false]

theorem reduceFrom_err_b (hx : m.word? (elementAddress a start j) = some x)
    (hy : m.word? (elementAddress b start j) = none) :
    reduceFrom m g true a b start (n + 1) j acc = responseOf statusAccessFault (elementAddress b start j) := by
  simp only [reduceFrom, (memRead_data_iff ..).2 hx, (memRead_err_iff ..).2 hy, if_true]

theorem reduceFrom_pair (hx : m.word? (elementAddress a start j) = some x)
    (hy : m.word? (elementAddress b start j) = some y) :
    reduceFrom m g true a b start (n + 1) j acc =
      reduceFrom m g true a b start n (j + 1) (acc + BitVec.ofNat 64 (popcount (g x y))) := by
  simp only [reduceFrom, (memRead_data_iff ..).2 hx, (memRead_data_iff ..).2 hy, if_true]

end

/-! ### Every packet is answered -/

/-- Within `k` steps from `s` the request in `cur` is answered with `out`, and the channels, memory and the
configuration are as before. -/
def AnswersWithin (k : Nat) (s : State) (out : Response) : Prop :=
  ∃ n ≤ k, ∃ t, Sys2Proof.core.run n s = .next t ∧ t.phase = .done ∧ t.cur = s.cur ∧ t.out = out ∧
    t.mem = s.mem ∧ t.reqs = s.reqs ∧ t.rsps = s.rsps ∧ t.config = s.config

theorem answersWithin_done {s : State} {out : Response} (hp : s.phase = .done) (hout : s.out = out) (k : Nat) :
    AnswersWithin k s out :=
  ⟨0, Nat.zero_le k, s, run_zero s, hp, rfl, hout, rfl, rfl, rfl, rfl⟩

theorem AnswersWithin.mono {k k' : Nat} {s : State} {out : Response} (h : AnswersWithin k s out) (hk : k ≤ k') :
    AnswersWithin k' s out := by
  obtain ⟨n, hn, hrest⟩ := h
  exact ⟨n, hn.trans hk, hrest⟩

/-! ### Reading the window -/

/-- A reduction with combine `g` and pairwise mark `p` is in flight and no other agent is about to act. -/
structure Reducing (g : Word → Word → Word) (p : Bool) (s : State) : Prop where
  quiet : Quiet s
  busy : s.phase = .busy
  operation : operationOf s.config s.cur.op = .reduction g p

section
variable {g : Word → Word → Word} {p : Bool} {s : State}

theorem Reducing.step_eq (h : Reducing g p s) :
    step s = .next (readStep g p s.cur.a s.cur.b s.cur.start s.cur.count s) := by
  rw [step_quiet h.quiet.1, unitStep_read h.busy h.operation]

/-- R29: one READ nearer to the answer. -/
theorem Reducing.answersWithin_succ (h : Reducing g p s) {k : Nat} {out : Response}
    (hread : AnswersWithin k (readStep g p s.cur.a s.cur.b s.cur.start s.cur.count s) out) :
    AnswersWithin (k + 1) s out := by
  obtain ⟨n, hn, t, hrun, hphase, hcur, hout, hmem, hreqs, hrsps, hconfig⟩ := hread
  obtain ⟨fcur, freqs, frsps, -, -, fmem, -, fconfig, -⟩ :=
    readStep_frame g p s.cur.a s.cur.b s.cur.start s.cur.count s
  exact ⟨n + 1, Nat.succ_le_succ hn, t, (run_succ_next h.step_eq n).trans hrun, hphase, hcur.trans fcur, hout,
    hmem.trans fmem, hreqs.trans freqs, hrsps.trans frsps, hconfig.trans fconfig⟩

/-- R29, R151: a read that answers `Err` is the answer. -/
theorem Reducing.answersWithin_err (h : Reducing g p s) (k : Nat)
    (herr : s.mem.word? (nextAddress s.cur.a s.cur.b s.cur.start s) = none) :
    AnswersWithin (k + 1) s (responseOf statusAccessFault (nextAddress s.cur.a s.cur.b s.cur.start s)) := by
  apply h.answersWithin_succ
  rw [readStep_err h.quiet.2 g p _ herr]
  exact answersWithin_done rfl rfl k

/-- The rest of the window, `n` elements, is answered once element `i` of the request is counted as the word `e`. -/
def AnswersRest (g : Word → Word → Word) (p : Bool) (n : Nat) (s : State) (e : Word) : Prop :=
  AnswersWithin (2 * n) (countElement e s.cur.count s)
    (reduceFrom s.mem g p s.cur.a s.cur.b s.cur.start n (s.i.toNat + 1) (s.acc + BitVec.ofNat 64 (popcount e)))

/-- R122: the second half of the loop's turn for a pairwise reduction, with the word `x` of array A held. -/
theorem Reducing.answersWithin_second (h : Reducing g true s) (hsel : s.sel = .b) {n : Nat}
    (hx : s.mem.word? (elementAddress s.cur.a s.cur.start s.i.toNat) = some s.waReg)
    (hrest : ∀ (u : State) (e : Word), Reducing g true u → u.cur = s.cur → u.i = s.i → AnswersRest g true n u e) :
    AnswersWithin (2 * n + 1) s
      (reduceFrom s.mem g true s.cur.a s.cur.b s.cur.start (n + 1) s.i.toNat s.acc) := by
  have haddr := nextAddress_b hsel s.cur.a s.cur.b s.cur.start
  cases hy : s.mem.word? (nextAddress s.cur.a s.cur.b s.cur.start s) with
  | none =>
    rw [reduceFrom_err_b hx (haddr ▸ hy), ← haddr]
    exact h.answersWithin_err (2 * n) hy
  | some y =>
    rw [reduceFrom_pair hx (haddr ▸ hy)]
    apply h.answersWithin_succ
    rw [readStep_data_count h.quiet.2 g _ (by simp [hsel]) hy]
    exact hrest (sendRead _ s) (g s.waReg y) ⟨h.quiet, h.busy, h.operation⟩ rfl rfl

/-- R122: one turn of the loop. An element is read in one or two READs, which answer with the fault of R151 or count
the element; `hrest` says that then the rest of the window is answered. -/
theorem Reducing.answersWithin_element (h : Reducing g p s) (hsel : s.sel = .a) {n : Nat}
    (hrest : ∀ (u : State) (e : Word), Reducing g p u → u.cur = s.cur → u.i = s.i → AnswersRest g p n u e) :
    AnswersWithin (2 * n + 2) s
      (reduceFrom s.mem g p s.cur.a s.cur.b s.cur.start (n + 1) s.i.toNat s.acc) := by
  have haddr := nextAddress_a hsel s.cur.a s.cur.b s.cur.start
  cases hx : s.mem.word? (nextAddress s.cur.a s.cur.b s.cur.start s) with
  | none =>
    rw [reduceFrom_err_a (haddr ▸ hx), ← haddr]
    exact h.answersWithin_err (2 * n + 1) hx
  | some x =>
    cases p with
    | false =>
      rw [reduceFrom_single (haddr ▸ hx)]
      refine AnswersWithin.mono (k := 2 * n + 1) (h.answersWithin_succ ?_) (by omega)
      rw [readStep_data_count h.quiet.2 g _ (by simp) hx]
      exact hrest (sendRead _ s) (g x 0#64) ⟨h.quiet, h.busy, h.operation⟩ rfl rfl
    | true =>
      apply h.answersWithin_succ
      rw [readStep_data_first h.quiet.2 g _ hsel hx]
      exact Reducing.answersWithin_second (s := { sendRead _ s with waReg := x, sel := .b })
        ⟨h.quiet, h.busy, h.operation⟩ rfl (haddr ▸ hx) hrest

/-- R122: the loop, by the number of elements still to be read. -/
theorem Reducing.answersRest (n : Nat) {s : State} (h : Reducing g p s) (hn : s.i.toNat + 1 + n = s.cur.count.toNat)
    (e : Word) : AnswersRest g p n s e := by
  have hi : (s.i + 1#33).toNat = s.i.toNat + 1 := next_index_toNat (count := s.cur.count) (by omega)
  unfold AnswersRest
  induction n generalizing s e with
  | zero =>
    rw [countElement_last (by omega)]
    exact answersWithin_done rfl rfl _
  | succ n ih =>
    rw [countElement_more (by omega), ← hi]
    refine Reducing.answersWithin_element
      (s := { s with acc := s.acc + BitVec.ofNat 64 (popcount e), i := s.i + 1#33, sel := .a })
      ⟨h.quiet, h.busy, h.operation⟩ rfl fun u e hu hcur hui => ?_
    have hnext : u.i.toNat + 1 + n = u.cur.count.toNat := by rw [hcur, hui]; simp only; omega
    exact ih hu hnext e (next_index_toNat (count := u.cur.count) (by omega))

/-- R28, R122: a packet just accepted is answered within two READs for each element. -/
theorem specAccept_answers (hq : Quiet s) (r : Request) :
    AnswersWithin (2 * r.count.toNat) (specAccept r s) (responseTo s.config s.mem r) := by
  unfold specAccept responseTo
  cases hop : operationOf s.config r.op with
  | illegal => exact answersWithin_done rfl rfl _
  | scalar f => exact answersWithin_done rfl rfl _
  | reduction g p =>
    cases hc : r.count.toNat with
    | zero => exact answersWithin_done rfl rfl _
    | succ n =>
      refine Reducing.answersWithin_element
        (s := { s with cur := r, i := 0#33, sel := .a, acc := 0#64, phase := .busy }) ⟨hq, rfl, hop⟩ rfl
        fun u e hu hcur hui => hu.answersRest n ?_ e
      rw [hcur, hui, hc]; simp only [BitVec.toNat_ofNat]; omega

end

/-! ### From the offer to the answer -/

theorem specAccept_frame (r : Request) (s : State) :
    (specAccept r s).cur = r ∧ (specAccept r s).mem = s.mem ∧ (specAccept r s).reqs = s.reqs ∧
      (specAccept r s).rsps = s.rsps ∧ (specAccept r s).config = s.config := by
  unfold specAccept
  cases operationOf s.config r.op with
  | illegal => simp
  | scalar f => simp
  | reduction g p => by_cases hc : r.count.toNat = 0 <;> simp [hc]

/-- Settles O34: one step accepts the packet, and `specAccept_answers`. -/
theorem everyRequestIsAnswered : Obligations.EveryRequestIsAnswered := by
  intro s r rest hq hp hreqs
  have hstep : step s = .next (specAccept r { s with reqs := rest }) :=
    (step_quiet hq.1).trans (unitStep_accept hp hreqs)
  obtain ⟨n, hn, t, hrun, hphase, hcur, hout, hmem, htreqs, hrsps, hconfig⟩ :=
    specAccept_answers (s := { s with reqs := rest }) hq r
  obtain ⟨fcur, fmem, freqs, frsps, fconfig⟩ := specAccept_frame r { s with reqs := rest }
  exact ⟨n + 1, by omega, t, (run_succ_next hstep n).trans hrun, hphase, hcur.trans fcur, hout, hmem.trans fmem,
    htreqs.trans freqs, hrsps.trans frsps, hconfig.trans fconfig⟩

end Sys2Proof.Machine
end

section
/-! PROOFS. Memory: what the platform's actions leave, and when two memories are the same data (20_memory.md R40,
R42). -/

namespace Sys2Proof.Machine

/-- Settles O52: the platform sets a word or drops it. -/
theorem memoryAnswersTheLastWrite : Obligations.MemoryAnswersTheLastWrite := by
  intro m wa answer hm
  refine ⟨wf_answer hm wa answer, ?_⟩
  cases answer with
  | some d => exact ⟨word?_setWord_same m wa d, fun _ => word?_setWord_other m d⟩
  | none => exact ⟨word?_dropWord_same m wa, fun _ => word?_dropWord_other m⟩

/-- The bytes of eight bytes put together are those bytes, so a word tells its cells. -/
theorem bytes_join {c0 c1 c2 c3 c4 c5 c6 c7 : Byte} {d : Word}
    (h : c7 ++ c6 ++ c5 ++ c4 ++ c3 ++ c2 ++ c1 ++ c0 = d) :
    c0 = d.extractLsb' 0 8 ∧ c1 = d.extractLsb' 8 8 ∧ c2 = d.extractLsb' 16 8 ∧ c3 = d.extractLsb' 24 8 ∧
      c4 = d.extractLsb' 32 8 ∧ c5 = d.extractLsb' 40 8 ∧ c6 = d.extractLsb' 48 8 ∧ c7 = d.extractLsb' 56 8 := by
  subst h
  simp only [← BitVec.toNat_inj, BitVec.extractLsb'_toNat, toNat_append_add, Nat.shiftRight_eq_div_pow]
  omega

/-- A word that memory has is in its eight cells. -/
theorem cell?_of_word?_some {m : Memory} {wa d : Word} (h : m.word? wa = some d) {lane : Nat} (hl : lane < 8) :
    m.cell? (cellKey wa lane) = some (d.extractLsb' (8 * lane) 8) := by
  unfold Memory.word? at h
  split at h
  · next h0 h1 h2 h3 h4 h5 h6 h7 =>
    obtain ⟨rfl, rfl, rfl, rfl, rfl, rfl, rfl, rfl⟩ := bytes_join (Option.some.inj h)
    interval_cases lane
    exacts [h0, h1, h2, h3, h4, h5, h6, h7]
  · cases h

/-- A word that memory does not have misses a cell. -/
theorem exists_cell?_none {m : Memory} {wa : Word} (h : m.word? wa = none) :
    ∃ lane < 8, m.cell? (cellKey wa lane) = none := by
  by_contra hall
  have hsome (lane : Nat) (hl : lane < 8) : ∃ v, m.cell? (cellKey wa lane) = some v :=
    Option.ne_none_iff_exists'.1 fun hn => hall ⟨lane, hl, hn⟩
  choose! c hc using hsome
  simp [Memory.word?, hc] at h

/-- The canonical form lists a word whole or not at all. -/
theorem cell?_of_word?_none {m : Memory} (hm : m.wf) {wa : Word} (h : m.word? wa = none) {lane : Nat} (hl : lane < 8) :
    m.cell? (cellKey wa lane) = none := by
  obtain ⟨-, -, hwhole⟩ := hm
  obtain ⟨lane', hl', hmiss⟩ := exists_cell?_none h
  rw [cell?_eq_none_iff] at hmiss ⊢
  intro hkey
  obtain ⟨c, hc, hck⟩ := List.mem_map.1 hkey
  have := hwhole c hc lane' (List.mem_range.2 hl')
  rw [hck, cellKey_div hl] at this
  exact hmiss this

/-- In the canonical form a cell is its byte of the word that memory answers. -/
theorem cell?_eq_word? {m : Memory} (hm : m.wf) (wa : Word) {lane : Nat} (hl : lane < 8) :
    m.cell? (cellKey wa lane) = (m.word? wa).map fun d => d.extractLsb' (8 * lane) 8 := by
  cases h : m.word? wa with
  | none => exact cell?_of_word?_none hm h hl
  | some d => exact cell?_of_word?_some h hl

/-- No cell of the canonical form is outside the `2^64` words. -/
theorem cell?_outside {m : Memory} (hm : m.wf) {k : Nat} (hk : 2 ^ 67 ≤ k) : m.cell? k = none := by
  obtain ⟨-, hbound, -⟩ := hm
  rw [cell?_eq_none_iff]
  intro hkey
  obtain ⟨c, hc, rfl⟩ := List.mem_map.1 hkey
  exact absurd (hbound c hc) hk.not_gt

/-- Every key below `2^67` is that of a cell of a word. -/
theorem exists_cellKey {k : Nat} (hk : k < 2 ^ 67) : ∃ (wa : Word) (lane : Nat), lane < 8 ∧ cellKey wa lane = k :=
  ⟨BitVec.ofNat 64 (k / 8), k % 8, by omega, by rw [cellKey, BitVec.toNat_ofNat]; omega⟩

theorem mem_iff_cell? {m : Memory} (h : (m.map Prod.fst).Pairwise (· < ·)) (k : Nat) (v : Byte) :
    (k, v) ∈ m ↔ m.cell? k = some v := by
  induction m with
  | nil => simp [Memory.cell?]
  | cons c rest ih =>
    obtain ⟨key, x⟩ := c
    obtain ⟨hfirst, hrest⟩ := List.pairwise_cons.1 h
    rw [List.mem_cons, ih hrest, Memory.cell?]
    split
    · next heq =>
      have habsent : Memory.cell? rest k = none :=
        (cell?_eq_none_iff rest k).2 fun hk => (hfirst k hk).ne heq
      simp [habsent, heq, eq_comm]
    · next hne => simp [Ne.symm hne]

/-- Two memories with rising keys are equal when all their cells are. -/
theorem eq_of_cell?_eq {m m' : Memory} (h : (m.map Prod.fst).Pairwise (· < ·))
    (h' : (m'.map Prod.fst).Pairwise (· < ·)) (hcell : ∀ k, m.cell? k = m'.cell? k) : m = m' := by
  have hmem (c : Host.Cell) : c ∈ m ↔ c ∈ m' := by rw [mem_iff_cell? h, mem_iff_cell? h', hcell]
  exact List.Pairwise.eq_of_mem_iff (List.pairwise_map.1 h) (List.pairwise_map.1 h') hmem

/-- Settles O53: the words tell every cell, and the cells tell the list. -/
theorem equalMemoriesAreEqualData : Obligations.EqualMemoriesAreEqualData := by
  intro m m' hm hm' hword
  refine eq_of_cell?_eq hm.1 hm'.1 fun k => ?_
  by_cases hk : k < 2 ^ 67
  · obtain ⟨wa, lane, hl, rfl⟩ := exists_cellKey hk
    rw [cell?_eq_word? hm wa hl, cell?_eq_word? hm' wa hl, hword wa]
  · rw [cell?_outside hm (by omega), cell?_outside hm' (by omega)]

end Sys2Proof.Machine
end

section
/-! PROOFS. The addresses of a window, the reads that are sent, and the memory that no step of the unit writes
(20_memory.md R41, R43, R44). -/

namespace Sys2Proof.Machine

/-- Settles O31: each addition wraps on its own, and the bound is that of two 32-bit numbers. -/
theorem elementAddressWraps : Obligations.ElementAddressWraps := by
  intro base start j
  have hstart := start.isLt
  refine ⟨?_, fun count hj => ?_⟩
  · simp only [elementAddress, BitVec.toNat_add, BitVec.toNat_setWidth, BitVec.toNat_ofNat]
    omega
  · have hcount := count.isLt
    omega

/-- R43, R44: no step of the unit changes memory, and only one in `BUSY` sends reads. -/
theorem unitStep_frame {s t : State} (h : unitStep s = .next t) :
    t.mem = s.mem ∧ (s.phase ≠ .busy → t.reads = s.reads) := by
  have hexec {i : Instr} {u : State} (hu : exec i u = .next t) :
      t.mem = u.mem ∧ (u.phase ≠ .busy → t.reads = u.reads) := by
    obtain ⟨hmem, -, -, -, -, -, -, -, -, hreads, -⟩ := execFrame i u t hu
    exact ⟨hmem, hreads⟩
  cases hp : s.phase with
  | idle =>
    cases hreqs : s.reqs with
    | nil => obtain rfl := next_unique (unitStep_idle_none hp hreqs) h; simp
    | cons r rest =>
      cases hd : decode r with
      | ok i => simpa [hp] using hexec ((unitStep_idle_ok hp hreqs hd).symm.trans h)
      | error e => obtain rfl := next_unique (unitStep_idle_illegal hp hreqs hd) h; simp
  | busy =>
    cases hd : decode s.cur with
    | ok i => simpa [hp] using hexec ((unitStep_busy_ok hp hd).symm.trans h)
    | error e => simp [unitStep_busy_illegal hp hd] at h
  | done => obtain rfl := next_unique (unitStep_done hp) h; simp [deliver_frame]

/-- R26: a step is the unit's, or it sends no read and leaves memory as it is or as the platform's action says. -/
theorem step_unit_or_agent {s t : State} (h : step s = .next t) :
    (∃ s₀, UnitTurn s s₀ ∧ unitStep s₀ = .next t) ∨
      (t.reads = s.reads ∧ (t.mem = s.mem ∨
        ∃ wa answer rest, s.agenda = .memory wa answer :: rest ∧ t.mem = s.mem.answer wa answer)) := by
  rcases step_cases s with ⟨s₀, hturn, hs⟩ |
    ⟨rest, ⟨r, -, hs⟩ | ⟨b, -, hs⟩ | ⟨b, -, hs⟩ | ⟨wa, x, ha, hs⟩ | ⟨-, hs⟩⟩
  · exact .inl ⟨s₀, hturn, hs.symm.trans h⟩
  all_goals
    obtain rfl := next_unique hs h
    right
  · exact ⟨rfl, .inl rfl⟩
  · exact ⟨rfl, .inl rfl⟩
  · exact ⟨rfl, .inl rfl⟩
  · exact ⟨rfl, .inr ⟨wa, x, rest, ha, rfl⟩⟩
  · exact ⟨rfl, .inl rfl⟩

/-- Settles O45: the unit by `unitStep_frame`, the agents by `step_unit_or_agent`. -/
theorem unitNeverWritesMemory : Obligations.UnitNeverWritesMemory := by
  refine ⟨fun s t h => (unitStep_frame h).1, fun s t h hne => ?_⟩
  rcases step_unit_or_agent h with ⟨s₀, hturn, hunit⟩ | ⟨-, hmem | hplatform⟩
  · exact absurd ((unitStep_frame hunit).1.trans hturn.mem) hne
  · exact absurd hmem hne
  · exact hplatform

/-- R29, R43: under the invariant, the unit's step in `BUSY` sends no read or one of a word of the window. -/
theorem unitStep_busy_reads {s t : State} (hbusy : BusyInv s) (hp : s.phase = .busy) (h : unitStep s = .next t) :
    t.reads = s.reads ∨ ∃ wa, t.reads = s.reads ++ [wa] ∧ inWindow s.cur wa := by
  obtain ⟨i, hd, hi, hlt, hsel, -⟩ := hbusy
  obtain ⟨g, p, hr⟩ := exists_reductionOf hi
  obtain rfl := next_unique ((unitStep_busy_ok hp hd).trans (exec_reduction_busy hr hp)) h
  exact (readStep_reads ..).imp_right fun hread => ⟨_, hread, nextAddress_inWindow hd hi hlt hsel⟩

/-- Settles O46: of the unit's steps only READ sends a read, and of the agents' actions none. -/
theorem noReadOutsideTheWindow : Obligations.NoReadOutsideTheWindow := by
  intro s t hinv h
  rcases step_unit_or_agent h with ⟨s₀, hturn, hunit⟩ | ⟨hreads, -⟩
  · rw [← hturn.reads, ← hturn.phase, ← hturn.cur]
    by_cases hp : s₀.phase = .busy
    · refine (unitStep_busy_reads ((hturn.inv hinv).busy hp) hp hunit).imp_right ?_
      rintro ⟨wa, hread, hwin⟩
      exact ⟨wa, hread, hp, hwin⟩
    · exact .inl ((unitStep_frame hunit).2 hp)
  · exact .inl hreads

end Sys2Proof.Machine
end

section
/-! PROOFS. The request and the response packet as numbers, the illegal opcodes, the operation table, the ignored fields
and the aliases of the textual form (30_encoding.md R60, R61, R64 to R66, R69, R71), and what runs on the unit's turn
(10_state.md R28 to R30). -/

namespace Sys2Proof

/-! ### Requests (R60, R64) -/

/-- R64, R66: each constructor's opcode is in the table. -/
theorem instr_wellFormed (i : Instr) : i.wellFormed = true := by
  cases i <;> rfl

/-- Settles O4: the opcode selects the constructor and the four other fields come back (`decode_encode`). -/
theorem decodeOfEncode : Obligations.DecodeOfEncode :=
  fun i => ⟨instr_wellFormed i, decode_encode i⟩

/-- Settles O5: `encode_of_decode`, which is `decode_cases` and `pack_fields`. -/
theorem encodeOfDecode : Obligations.EncodeOfDecode :=
  fun _ _ => encode_of_decode

/-- R60: each field at its weight. -/
theorem pack_toNat (op : Byte) (a b : Word) (start count : Word32) :
    (Request.pack op a b start count).toNat =
      op.toNat + a.toNat * 2 ^ 8 + b.toNat * 2 ^ 72 + start.toNat * 2 ^ 136 + count.toNat * 2 ^ 168 := by
  simp only [Request.pack, toNat_append_add]
  omega

/-- Settles O6: `pack_toNat`, and the field laws of Laws/Decode.lean. -/
theorem requestPacketAsNumber : Obligations.RequestPacketAsNumber :=
  fun op a b start count => ⟨pack_toNat op a b start count, op_pack .., a_pack .., b_pack .., start_pack ..,
    count_pack ..⟩

/-! ### Illegal opcodes (R66) -/

/-- R66: the decoder refuses exactly the packets whose opcode is none of the twelve. -/
theorem decode_illegal_iff (r : Request) :
    decode r = .error (.illegalOpcode r.op) ↔ legalOpcode r.op = false := by
  rcases decode_cases r with ⟨i, hd, hop, -⟩ | ⟨hd, hop⟩
  · have hlegal : legalOpcode r.op = true := hop ▸ instr_wellFormed i
    simp [hd, hlegal]
  · simp [hd, hop]

/-- R66: the ranges between and after the rows of the table. -/
theorem legalOpcode_eq_false_iff (op : Byte) :
    legalOpcode op = false ↔
      (op.toNat = 0 ∨ (5 ≤ op.toNat ∧ op.toNat ≤ 7) ∨ (0x0B ≤ op.toNat ∧ op.toNat ≤ 0x0F) ∨ 0x15 ≤ op.toNat) := by
  simp only [legalOpcode, legalOpcodes, List.contains_cons, List.contains_nil, Bool.or_false, Bool.or_eq_false_iff,
    beq_eq_false_iff_ne, ne_eq, BitVec.toNat_eq, BitVec.toNat_ofNat]
  omega

end Sys2Proof

namespace Sys2Proof.Machine

/-- R66: 244 is nine illegal opcodes below 0x15 and the 235 from it up. -/
theorem illegal_opcode_count :
    ((List.range 256).filter fun n => !legalOpcode (BitVec.ofNat 8 n)).length = 244 := by
  have hbelow : ((List.range 21).filter fun n => !legalOpcode (BitVec.ofNat 8 n)).length = 9 := by decide
  have habove : ∀ n ∈ (List.range 235).map (21 + ·), (!legalOpcode (BitVec.ofNat 8 n)) = true := by
    simp only [List.mem_map, List.mem_range, Bool.not_eq_true']
    rintro _ ⟨k, hk, rfl⟩
    rw [legalOpcode_eq_false_iff, BitVec.toNat_ofNat]
    omega
  have hsplit : List.range 256 = List.range 21 ++ (List.range 235).map (21 + ·) := List.range_add (n := 21) (m := 235)
  rw [hsplit, List.filter_append, List.filter_eq_self.2 habove, List.length_append, hbelow, List.length_map,
    List.length_range]

theorem decode_zero_packet : decode 0#200 = .error (.illegalOpcode 0#8) :=
  (decode_illegal_iff 0#200).2 rfl

/-- R66, R153: on the unit's turn an illegal packet is accepted and answered in the one step. -/
theorem step_illegal {s s₀ : State} {r : Request} {rest : List Request} (ht : UnitTurn s s₀) (hp : s.phase = .idle)
    (hreqs : s.reqs = r :: rest) (hop : legalOpcode r.op = false) :
    step s = .next (acceptIllegal r { s₀ with reqs := rest }) := by
  rw [step_unit ht]
  exact unitStep_idle_illegal (ht.phase.trans hp) (ht.reqs.trans hreqs) ((decode_illegal_iff r).2 hop)

/-- Settles O8: `decode_illegal_iff` with the ranges of `legalOpcode_eq_false_iff`, `illegal_opcode_count` and
`step_illegal`. -/
theorem illegalOpcodes : Obligations.IllegalOpcodes :=
  ⟨fun r => (decode_illegal_iff r).trans (legalOpcode_eq_false_iff r.op), illegal_opcode_count, decode_zero_packet,
    fun _ _ _ _ => step_illegal⟩

/-! ### The operation table (R71) -/

theorem reductionOf_eq_none {c : ConfigChoice} {i : Instr} {v : Word} (h : scalarOf c i = some v) :
    reductionOf i = none := by
  rcases scalar_or_reduction c i with ⟨_, -, hn⟩ | ⟨_, _, -, hn⟩
  · exact hn
  · rw [h] at hn; cases hn

theorem scalarOf_eq_none {i : Instr} {g : Word → Word → Word} {p : Bool} (h : reductionOf i = some (g, p))
    (c : ConfigChoice) : scalarOf c i = none := by
  rcases scalar_or_reduction c i with ⟨_, -, hn⟩ | ⟨_, _, -, hn⟩
  · rw [h] at hn; cases hn
  · exact hn

/-- Settles O9: the three cases of `operation_cases`; no instruction is both scalar and a reduction. -/
theorem operationTableAgrees : Obligations.OperationTableAgrees := by
  intro c r
  rcases operation_cases c r with ⟨hd, hop⟩ | ⟨i, f, hd, hop, hv⟩ | ⟨i, g, p, hd, hop, hr, -⟩ <;> rw [hd]
  · exact hop
  · exact .inl ⟨f, hop, hv, reductionOf_eq_none hv⟩
  · exact .inr ⟨g, p, hop, hr, scalarOf_eq_none hr c⟩

/-! ### The ignored fields (R65) -/

/-- R63, R71: the response owed to a scalar request is its result. -/
theorem responseTo_scalar {c : ConfigChoice} {i : Instr} {v : Word} (h : scalarOf c i = some v) (m : Memory) :
    responseTo c m (encode i) = responseOf statusOk v := by
  obtain ⟨f, hf, rfl⟩ := operationOf_opcode_scalar h
  simp only [responseTo, op_encode, a_encode, hf]

/-- R122: the response owed to a reduction is that of the loop over its window. -/
theorem responseTo_reduction {i : Instr} {g : Word → Word → Word} {p : Bool} (h : reductionOf i = some (g, p))
    (c : ConfigChoice) (m : Memory) :
    responseTo c m (encode i) = reduceFrom m g p i.a i.b i.start i.count.toNat 0 0#64 := by
  simp only [responseTo, op_encode, a_encode, b_encode, start_encode, count_encode, operationOf_opcode_reduction h c]

/-- R65: scalar requests with one result are owed one response, whatever their fields are. -/
theorem responseTo_congr_scalar {c : ConfigChoice} {i i' : Instr} {v : Word} (m : Memory) (h : scalarOf c i = some v)
    (h' : scalarOf c i' = some v) : responseTo c m (encode i) = responseTo c m (encode i') := by
  rw [responseTo_scalar h, responseTo_scalar h']

/-- R124: a reduction that is not pairwise never reads through `b`. -/
theorem reduceFrom_single_ignores_b (m : Memory) (g : Word → Word → Word) (a b b' : Word) (start : Word32)
    (n j : Nat) (acc : Word) :
    reduceFrom m g false a b start n j acc = reduceFrom m g false a b' start n j acc := by
  induction n generalizing j acc with
  | zero => rfl
  | succ n ih =>
    cases hx : m.word? (elementAddress a start j) with
    | none => rw [reduceFrom_err_a hx, reduceFrom_err_a hx]
    | some x => rw [reduceFrom_single hx, reduceFrom_single hx, ih]

theorem windowReads_single_ignores_b (a b b' : Word) (start : Word32) (n : Nat) :
    windowReads false a b start n = windowReads false a b' start n := rfl

/-- Settles O24: a scalar result is a function of `a`, for the `.W` operations of `operand32 a`; `POPARR` by induction
on the window (`reduceFrom_single_ignores_b`). -/
theorem ignoredFieldsHaveNoEffect : Obligations.IgnoredFieldsHaveNoEffect := by
  intro c m a a' b b' start start' count count'
  refine ⟨fun h => ?_, responseTo_congr_scalar m rfl rfl, responseTo_congr_scalar m rfl rfl,
    responseTo_congr_scalar m rfl rfl, responseTo_congr_scalar m rfl rfl, responseTo_congr_scalar m rfl rfl, ?_,
    windowReads_single_ignores_b ..⟩
  · have hop : operand32 a' = operand32 a := h.symm
    exact ⟨responseTo_congr_scalar m rfl (by rw [scalarOf, hop]),
      responseTo_congr_scalar m rfl (by rw [scalarOf, hop])⟩
  · rw [responseTo_reduction rfl, responseTo_reduction rfl]
    exact reduceFrom_single_ignores_b ..

/-! ### The unit's turn (R28 to R30) -/

/-- R29, R30: while it is not `IDLE` the unit runs the request it holds. -/
theorem unitStep_in_flight_ok {s : State} {i : Instr} (hp : s.phase ≠ .idle) (hd : decode s.cur = .ok i) :
    unitStep s = exec i s := by
  cases hph : s.phase with
  | idle => exact absurd hph hp
  | busy => exact unitStep_busy_ok hph hd
  | done => rw [unitStep_done hph, exec_done hph]

/-- Settles O1: `unitStep_idle_ok` in `IDLE`, `unitStep_in_flight_ok` in `BUSY` and `DONE`. -/
theorem stepRunsTheDecodedInstruction : Obligations.StepRunsTheDecodedInstruction := by
  intro s s₀ i ht
  refine ⟨fun r rest hp hreqs hd => ?_, fun hp hd => ?_⟩
  · rw [step_unit ht]
    exact unitStep_idle_ok (ht.phase.trans hp) (ht.reqs.trans hreqs) hd
  · rw [step_unit ht]
    exact unitStep_in_flight_ok (ht.phase.symm ▸ hp) (ht.cur.symm ▸ hd)

/-! ### Responses (R61) -/

/-- R61: both fields at their weights. -/
theorem responseOf_toNat (status : Byte) (value : Word) :
    (responseOf status value).toNat = status.toNat + value.toNat * 2 ^ 8 := by
  rw [responseOf, toNat_append_add, Nat.add_comm]

/-- Settles O7: `responseOf_toNat`, and the field laws of a response. -/
theorem responsePacketAsNumber : Obligations.ResponsePacketAsNumber :=
  fun status value => ⟨responseOf_toNat status value, responseStatus_responseOf .., responseValue_responseOf ..⟩

end Sys2Proof.Machine

namespace Sys2Proof.Machine.Asm

/-! ### Aliases (R69) -/

/-- The line of a request with no annotation. -/
def Line.bare (i : Instr) : Line := ⟨encode i, none⟩

theorem request_ctz (operands : List (List Char)) :
    request "CTZ".toList operands = request "NTZ".toList operands :=
  calc
    request "CTZ".toList operands = scalar 64 .ntz operands := rfl
    _ = request "NTZ".toList operands := rfl

/-- R69: `POPCOUNT` of a base is `POPARR` over the one element at it. -/
theorem request_popcount (baseA : List Char) :
    request "POPCOUNT".toList [baseA] = request "POPARR".toList [baseA, "0".toList, "1".toList] := by
  have hstart : unsignedField 32 "0".toList = some 0#32 := rfl
  have hcount : unsignedField 32 "1".toList = some 1#32 := rfl
  change popcountRequest [baseA] = single [baseA, "0".toList, "1".toList]
  simp only [popcountRequest, single, hstart, hcount]
  cases unsignedField 64 baseA <;> rfl

/-- Settles O54: the lines of R69 are read into mnemonic and operands, where `request_ctz` and `request_popcount`
say they are one request; the annotated line is evaluated. -/
theorem assemblerSamples : Obligations.AssemblerSamples := by
  have hctz : line "CTZ 8".toList = (request "CTZ".toList ["8".toList]).map Line.bare := rfl
  have hntz : line "NTZ 8".toList = (request "NTZ".toList ["8".toList]).map Line.bare := rfl
  have hpopcount : line "POPCOUNT 0x1004".toList =
      (request "POPCOUNT".toList ["0x1004".toList]).map Line.bare := rfl
  have hpoparr : line "POPARR 0x1004, 0, 1".toList =
      (request "POPARR".toList ["0x1004".toList, "0".toList, "1".toList]).map Line.bare := rfl
  refine ⟨?_, ?_, ?_, rfl⟩
  · rw [hctz, hntz, request_ctz]
  · rw [hpopcount, hpoparr, request_popcount]
  · rw [hpopcount]; rfl

end Sys2Proof.Machine.Asm
end

section
/-! PROOFS. The power-of-two operations (40_power_of_two.md R80 to R89). The test and the rounding are first brought to
one form each for every width: no sign and a power of two as a number (`ispow2_iff_isPowerOfTwo`), and the power of two
whose exponent is `Nat.clog 2` (`roundUp`). The statements at widths 32 and 64 are instances of facts about these. -/

namespace Sys2Proof.Machine

/-! ### The test (R80) -/

/-- R120: the sum of the bits counts the indices of the set ones. -/
theorem popcount_eq_card {w : Nat} (x : BitVec w) :
    popcount x = ((Finset.range w).filter fun k => x.getLsbD k = true).card :=
  calc
    popcount x = ∑ k ∈ Finset.range w, (x.getLsbD k).toNat := rfl
    _ = ∑ k ∈ Finset.range w, if x.getLsbD k = true then 1 else 0 :=
      Finset.sum_congr rfl fun k _ => by cases x.getLsbD k <;> rfl
    _ = ((Finset.range w).filter fun k => x.getLsbD k = true).card := (Finset.card_filter ..).symm

/-- One set bit: the word is that bit alone. -/
theorem popcount_eq_one_iff {w : Nat} (x : BitVec w) : popcount x = 1 ↔ ∃ k < w, x = BitVec.twoPow w k := by
  rw [popcount_eq_card, Finset.card_eq_one]
  constructor
  · rintro ⟨k, hk⟩
    have hbit (j : Nat) : (j < w ∧ x.getLsbD j = true) ↔ j = k := by simpa using Finset.ext_iff.1 hk j
    have hkw := ((hbit k).2 rfl).1
    refine ⟨k, hkw, BitVec.eq_of_getLsbD_eq fun j hj => Bool.eq_iff_iff.2 ?_⟩
    simpa [BitVec.getLsbD_twoPow, hj, hkw, eq_comm (a := k)] using hbit j
  · rintro ⟨k, hk, rfl⟩
    refine ⟨k, Finset.ext fun j => ?_⟩
    simp only [Finset.mem_filter, Finset.mem_range, BitVec.getLsbD_twoPow, Finset.mem_singleton, hk, decide_true,
      Bool.true_and, decide_eq_true_eq]
    omega

theorem popcount_eq_one_iff_isPowerOfTwo {w : Nat} (x : BitVec w) : popcount x = 1 ↔ x.toNat.isPowerOfTwo := by
  rw [popcount_eq_one_iff]
  constructor
  · rintro ⟨k, hk, rfl⟩
    exact ⟨k, BitVec.toNat_twoPow_of_lt hk⟩
  · rintro ⟨k, hx⟩
    have hk : k < w := (Nat.pow_lt_pow_iff_right (by omega)).1 (hx ▸ x.isLt)
    exact ⟨k, hk, BitVec.eq_of_toNat_eq (hx.trans (BitVec.toNat_twoPow_of_lt hk).symm)⟩

theorem ispow2_iff {w : Nat} (x : BitVec w) : ispow2 x = true ↔ x.msb = false ∧ popcount x = 1 := by
  simp only [ispow2, Bool.and_eq_true, Bool.not_eq_true', beq_iff_eq]

/-- R80, in numbers. -/
theorem ispow2_iff_isPowerOfTwo {w : Nat} (x : BitVec w) :
    ispow2 x = true ↔ x.msb = false ∧ x.toNat.isPowerOfTwo := by
  rw [ispow2_iff, popcount_eq_one_iff_isPowerOfTwo]

/-- R80: the patterns that pass are the single bits below the top one. -/
theorem ispow2_iff_twoPow {w : Nat} (x : BitVec (w + 1)) :
    ispow2 x = true ↔ ∃ k ∈ List.range w, x = BitVec.twoPow (w + 1) k := by
  simp only [ispow2_iff, popcount_eq_one_iff, List.mem_range]
  constructor
  · rintro ⟨hmsb, k, hk, rfl⟩
    have hne : k ≠ w := by simpa [BitVec.msb_twoPow, hk] using hmsb
    exact ⟨k, by omega, rfl⟩
  · rintro ⟨k, hk, rfl⟩
    exact ⟨by simp [BitVec.msb_twoPow, hk.ne], k, by omega, rfl⟩

theorem toNat_sub_one {w : Nat} {x : BitVec w} (h : x ≠ 0#w) : (x - 1#w).toNat = x.toNat - 1 := by
  have hpos : x.toNat ≠ 0 := fun h0 => h (BitVec.eq_of_toNat_eq (by simpa using h0))
  have hone : (1#w).toNat = 1 := by rw [BitVec.toNat_ofNat, Nat.mod_eq_of_lt (by have := x.isLt; omega)]
  rw [BitVec.toNat_sub_of_le (BitVec.le_def.2 (by omega)), hone]

/-- R80, the wrap-around form: a nonzero number has no bit in common with its predecessor exactly when it is a power of
two. -/
theorem ispow2_iff_and_sub_one {w : Nat} (x : BitVec (w + 1)) :
    ispow2 x = true ↔ x.getLsbD w = false ∧ x ≠ 0#(w + 1) ∧ x &&& (x - 1#(w + 1)) = 0#(w + 1) := by
  have hlast : x.msb = x.getLsbD w := BitVec.msb_eq_getLsbD_last x
  rw [ispow2_iff_isPowerOfTwo, hlast, ← Nat.ne_zero_and_sub_one_eq_zero_iff_isPowerOfTwo]
  refine and_congr_right fun _ => ?_
  have hzero : x ≠ 0#(w + 1) ↔ x.toNat ≠ 0 := by simp [BitVec.toNat_eq]
  rw [← hzero]
  refine and_congr_right fun hne => ?_
  rw [BitVec.toNat_eq, BitVec.toNat_and, toNat_sub_one hne, BitVec.toNat_ofNat, Nat.zero_mod]

/-! ### The fill (R84) -/

/-- Bit `i` of `u` is set exactly when `v` has one of the `n` bits from `i` up: what the steps of the fill of `v` have
reached. -/
def FilledBy {w : Nat} (n : Nat) (v u : BitVec w) : Prop :=
  ∀ i, u.getLsbD i = true ↔ ∃ j < n, v.getLsbD (i + j) = true

theorem filledBy_one {w : Nat} (v : BitVec w) : FilledBy 1 v v := fun i => by simp

/-- R84: a step by `n` doubles the reach. -/
theorem FilledBy.smear {w n : Nat} {v u : BitVec w} (h : FilledBy n v u) : FilledBy (n + n) v (smear u n) := by
  intro i
  rw [Machine.smear, BitVec.getLsbD_or, BitVec.getLsbD_ushiftRight, Bool.or_eq_true, h i, h (n + i)]
  constructor
  · rintro (⟨j, hj, hv⟩ | ⟨j, hj, hv⟩)
    · exact ⟨j, by omega, hv⟩
    · exact ⟨n + j, by omega, by rwa [show i + (n + j) = n + i + j by omega]⟩
  · rintro ⟨j, hj, hv⟩
    by_cases hjn : j < n
    · exact .inl ⟨j, hjn, hv⟩
    · exact .inr ⟨j - n, by omega, by rwa [show n + i + (j - n) = i + j by omega]⟩

theorem fill32_filledBy (v : Word32) : FilledBy 32 v (fill32 v) := (filledBy_one v).smear.smear.smear.smear.smear

theorem fill64_filledBy (v : Word) : FilledBy 64 v (fill64 v) := (filledBy_one v).smear.smear.smear.smear.smear.smear

/-- `v` has a bit from `i` up exactly when it is at least `2^i`. -/
theorem exists_getLsbD_iff {w : Nat} (v : BitVec w) (i : Nat) :
    (∃ j < w, v.getLsbD (i + j) = true) ↔ 2 ^ i ≤ v.toNat := by
  constructor
  · rintro ⟨j, -, hv⟩
    exact (Nat.pow_le_pow_right (by omega) (by omega)).trans (Nat.ge_two_pow_of_testBit (BitVec.testBit_toNat v ▸ hv))
  · intro h
    obtain ⟨k, hk, hv⟩ := Nat.exists_ge_and_testBit_of_ge_two_pow h
    rw [BitVec.testBit_toNat] at hv
    have hkw : k < w := BitVec.lt_of_getLsbD hv
    exact ⟨k - i, by omega, by rwa [show i + (k - i) = k by omega]⟩

/-- R84: a word filled over its whole width is all ones up to the highest set bit. -/
theorem FilledBy.toNat_eq {w : Nat} {v u : BitVec w} (h : FilledBy w v u) : u.toNat = 2 ^ v.toNat.size - 1 := by
  refine Nat.eq_of_testBit_eq fun i => Bool.eq_iff_iff.2 ?_
  rw [BitVec.testBit_toNat, h i, exists_getLsbD_iff, Nat.testBit_two_pow_sub_one, decide_eq_true_eq, Nat.lt_size]

theorem size_of_highest_bit {w : Nat} {v : BitVec w} {h : Nat} (hset : v.getLsbD h = true)
    (habove : ∀ j, h < j → v.getLsbD j = false) : v.toNat.size = h + 1 := by
  have hlow : h < v.toNat.size := Nat.lt_size.2 (Nat.ge_two_pow_of_testBit (BitVec.testBit_toNat v ▸ hset))
  have hhigh : v.toNat.size ≤ h + 1 :=
    Nat.size_le.2 (Nat.lt_pow_two_of_testBit _ fun j hj => BitVec.testBit_toNat v ▸ habove j hj)
  omega

/-- R84: the closed form of a nonzero word. -/
theorem FilledBy.toNat_of_highest_bit {w : Nat} {v u : BitVec w} {h : Nat} (hfill : FilledBy w v u)
    (hset : v.getLsbD h = true) (habove : ∀ j, h < j → v.getLsbD j = false) : u.toNat = 2 ^ (h + 1) - 1 := by
  rw [hfill.toNat_eq, size_of_highest_bit hset habove]

/-! ### Rounding up (R85) -/

/-- R85 in closed form: 0 for 0, and the smallest power of two at or above `x`, modulo `2^w`. -/
def roundUp {w : Nat} (x : BitVec w) : BitVec w := if x = 0#w then 0#w else BitVec.ofNat w (2 ^ Nat.clog 2 x.toNat)

theorem clog_eq_size_pred (n : Nat) : Nat.clog 2 n = (n - 1).size := by
  refine eq_of_forall_ge_iff fun k => ?_
  have := Nat.two_pow_pos k
  rw [Nat.clog_le_iff_le_pow (by omega), Nat.size_le]
  omega

/-- R85: decrement, fill, increment. -/
theorem FilledBy.add_one_eq_roundUp {w : Nat} {x u : BitVec w} (h : FilledBy w (x - 1#w) u) :
    u + 1#w = roundUp x := by
  have hpow := Nat.two_pow_pos (x - 1#w).toNat.size
  have hsum : (u + 1#w).toNat = 2 ^ (x - 1#w).toNat.size % 2 ^ w := by
    rw [BitVec.toNat_add, BitVec.toNat_ofNat, Nat.add_mod_mod, h.toNat_eq, Nat.sub_add_cancel hpow]
  apply BitVec.eq_of_toNat_eq
  rw [hsum, roundUp]
  split
  · next hx =>
    have hones : (0#w - 1#w).toNat = 2 ^ w - 1 := by
      rw [BitVec.zero_sub, BitVec.neg_one_eq_allOnes, BitVec.toNat_allOnes]
    rw [hx, hones, ← clog_eq_size_pred, Nat.clog_pow 2 w (by omega), Nat.mod_self, BitVec.toNat_ofNat, Nat.zero_mod]
  · next hx => rw [toNat_sub_one hx, ← clog_eq_size_pred, BitVec.toNat_ofNat]

theorem nhp2_32_eq_roundUp (x : Word32) : nhp2_32 x = roundUp x := (fill32_filledBy _).add_one_eq_roundUp

theorem nhp2_64_eq_roundUp (x : Word) : nhp2_64 x = roundUp x := (fill64_filledBy _).add_one_eq_roundUp

theorem roundUp_zero {w : Nat} : roundUp 0#w = 0#w := if_pos rfl

/-- R85, second row of the table. -/
theorem toNat_roundUp {w : Nat} {x : BitVec (w + 1)} (hpos : 1 ≤ x.toNat) (hle : x.toNat ≤ 2 ^ w) :
    (roundUp x).toNat = 2 ^ Nat.clog 2 x.toNat := by
  have hne : x ≠ 0#(w + 1) := by rintro rfl; simp at hpos
  have hlt : 2 ^ Nat.clog 2 x.toNat < 2 ^ (w + 1) :=
    Nat.pow_lt_pow_right (by omega) (Nat.lt_succ_of_le (Nat.clog_le_of_le_pow hle))
  rw [roundUp, if_neg hne, BitVec.toNat_ofNat, Nat.mod_eq_of_lt hlt]

/-- R85, third row of the table: the power of two is `2^(w+1)`, which wraps to 0. -/
theorem roundUp_of_gt {w : Nat} {x : BitVec (w + 1)} (h : 2 ^ w < x.toNat) : roundUp x = 0#(w + 1) := by
  have hne : x ≠ 0#(w + 1) := by rintro rfl; simp at h
  have hclog : Nat.clog 2 x.toNat = w + 1 :=
    le_antisymm (Nat.clog_le_of_le_pow x.isLt.le) ((Nat.lt_clog_iff_pow_lt (by omega)).2 h)
  rw [roundUp, if_neg hne, hclog]
  exact BitVec.eq_of_toNat_eq (by simp only [BitVec.toNat_ofNat, Nat.mod_self, Nat.zero_mod])

/-- R85: the table. -/
theorem roundUp_by_range {w : Nat} (x : BitVec (w + 1)) :
    (x.toNat = 0 → roundUp x = 0#(w + 1)) ∧
      (1 ≤ x.toNat → x.toNat ≤ 2 ^ w → (roundUp x).toNat = 2 ^ Nat.clog 2 x.toNat) ∧
      (2 ^ w < x.toNat → roundUp x = 0#(w + 1)) := by
  refine ⟨fun h => ?_, toNat_roundUp, roundUp_of_gt⟩
  obtain rfl : x = 0#(w + 1) := BitVec.eq_of_toNat_eq (by simpa using h)
  exact roundUp_zero

/-- R88 items 2 and 3: a power of two is its own answer. -/
theorem roundUp_of_isPowerOfTwo {w : Nat} {x : BitVec w} (h : x.toNat.isPowerOfTwo) : roundUp x = x := by
  obtain ⟨k, hk⟩ := h
  have hne : x ≠ 0#w := by
    rintro rfl
    exact (Nat.two_pow_pos k).ne' (by simpa using hk.symm)
  rw [roundUp, if_neg hne, hk, Nat.clog_pow 2 k (by omega), ← hk, BitVec.ofNat_toNat, BitVec.setWidth_eq]

/-- R88 item 4, the reference instance: of the negative operands only the minimum value is not answered with 0. -/
theorem roundUp_of_msb {w : Nat} {x : BitVec (w + 1)} (h : x.msb = true) :
    roundUp x = if x = BitVec.intMin (w + 1) then BitVec.intMin (w + 1) else 0#(w + 1) := by
  have hmin : (BitVec.intMin (w + 1)).toNat = 2 ^ w := BitVec.toNat_twoPow_of_lt (by omega)
  split
  · next hx => rw [hx, roundUp_of_isPowerOfTwo ⟨w, hmin⟩]
  · next hx =>
    have hge : 2 ^ w ≤ x.toNat := by simpa [BitVec.msb_eq_decide] using h
    have hne : x.toNat ≠ 2 ^ w := fun he => hx (BitVec.eq_of_toNat_eq (he.trans hmin.symm))
    exact roundUp_of_gt (by omega)

/-! ### Rounding and the test (R89) -/

theorem msb_of_toInt_nonneg {w : Nat} {x : BitVec w} (h : 0 ≤ x.toInt) : x.msb = false :=
  BitVec.msb_eq_false_iff_two_mul_lt.2 (BitVec.toInt_pos_iff.1 h)

/-- R88 item 2: the answer is positive again. -/
theorem msb_roundUp {w : Nat} {x : BitVec (w + 2)} (hpos : 1 ≤ x.toNat) (hle : x.toNat ≤ 2 ^ w) :
    (roundUp x).msb = false := by
  have hclog : 2 ^ Nat.clog 2 x.toNat ≤ 2 ^ w := Nat.pow_le_pow_right (by omega) (Nat.clog_le_of_le_pow hle)
  have hpos_pow := Nat.two_pow_pos w
  have hdouble : 2 ^ (w + 2) = 2 * 2 ^ (w + 1) := pow_succ' 2 (w + 1)
  rw [BitVec.msb_eq_false_iff_two_mul_lt, toNat_roundUp hpos (by omega)]
  omega

/-- R89: the answer for an operand from 1 to `2^(W-2)` passes the test and is the least that does, at or above it. -/
theorem roundUp_passes {w : Nat} {x : BitVec (w + 2)} (hpos : 1 ≤ x.toInt) (hle : x.toInt ≤ 2 ^ w) :
    ispow2 (roundUp x) = true ∧ x.toInt ≤ (roundUp x).toInt ∧
      ∀ y : BitVec (w + 2), ispow2 y = true → x.toInt ≤ y.toInt → (roundUp x).toInt ≤ y.toInt := by
  have hx := BitVec.toInt_eq_toNat_of_msb (msb_of_toInt_nonneg (by omega : 0 ≤ x.toInt))
  rw [hx] at hpos hle ⊢
  have hpos' : 1 ≤ x.toNat := by exact_mod_cast hpos
  have hle' : x.toNat ≤ 2 ^ w := by exact_mod_cast hle
  have hmsb := msb_roundUp hpos' hle'
  have hval := toNat_roundUp hpos' (hle'.trans (Nat.pow_le_pow_right (by omega) (by omega)))
  rw [BitVec.toInt_eq_toNat_of_msb hmsb, hval]
  refine ⟨(ispow2_iff_isPowerOfTwo _).2 ⟨hmsb, _, hval⟩, by exact_mod_cast Nat.le_pow_clog (by omega) _,
    fun y hy hxy => ?_⟩
  obtain ⟨hymsb, k, hk⟩ := (ispow2_iff_isPowerOfTwo y).1 hy
  rw [BitVec.toInt_eq_toNat_of_msb hymsb, hk] at hxy ⊢
  have hclog : Nat.clog 2 x.toNat ≤ k := Nat.clog_le_of_le_pow (by exact_mod_cast hxy)
  exact_mod_cast Nat.pow_le_pow_right (by omega) hclog

/-- R89: above `2^(W-2)` the answer is `2^(W-1)`, which is negative. -/
theorem roundUp_fails {w : Nat} {x : BitVec (w + 2)} (h : 2 ^ w < x.toInt) : ispow2 (roundUp x) = false := by
  have hnonneg : 0 ≤ x.toInt := (pow_nonneg (by omega) w).trans h.le
  have hmsb := msb_of_toInt_nonneg hnonneg
  rw [BitVec.toInt_eq_toNat_of_msb hmsb] at h
  have hlow : 2 ^ w < x.toNat := by exact_mod_cast h
  have hhigh := BitVec.msb_eq_false_iff_two_mul_lt.1 hmsb
  have hdouble : 2 ^ (w + 2) = 2 * 2 ^ (w + 1) := pow_succ' 2 (w + 1)
  have hclog : w + 1 ≤ Nat.clog 2 x.toNat := (Nat.lt_clog_iff_pow_lt (by omega)).2 hlow
  have hval := toNat_roundUp (Nat.one_le_of_lt hlow) (by omega : x.toNat ≤ 2 ^ (w + 1))
  have hbig : 2 ^ (w + 1) ≤ (roundUp x).toNat := hval ▸ Nat.pow_le_pow_right (by omega) hclog
  have htop : (roundUp x).msb = true := BitVec.msb_eq_true_iff_two_mul_ge.2 (by omega)
  simp [ispow2, htop]

theorem ispow2_zero {w : Nat} : ispow2 0#w = false := by
  simp [Bool.eq_false_iff, ispow2_iff_isPowerOfTwo, Nat.not_isPowerOfTwo_zero]

/-- R89 in full, for an answer that is `roundUp` on the operands that are not negative. -/
theorem rounding_meets_test {w : Nat} {x r : BitVec (w + 2)} (hr : x.msb = false → r = roundUp x) :
    (1 ≤ x.toInt → x.toInt ≤ 2 ^ w →
      ispow2 r = true ∧ x.toInt ≤ r.toInt ∧
        ∀ y : BitVec (w + 2), ispow2 y = true → x.toInt ≤ y.toInt → r.toInt ≤ y.toInt) ∧
      (ispow2 x = true → r = x) ∧ (x = 0#(w + 2) ∨ 2 ^ w < x.toInt → ispow2 r = false) := by
  refine ⟨fun hpos hle => ?_, fun hx => ?_, ?_⟩
  · rw [hr (msb_of_toInt_nonneg (by omega))]
    exact roundUp_passes hpos hle
  · obtain ⟨hmsb, hpow⟩ := (ispow2_iff_isPowerOfTwo x).1 hx
    rw [hr hmsb, roundUp_of_isPowerOfTwo hpow]
  · rintro (rfl | hx)
    · rw [hr BitVec.msb_zero, roundUp_zero, ispow2_zero]
    · rw [hr (msb_of_toInt_nonneg ((pow_nonneg (by omega) w).trans hx.le)), roundUp_fails hx]

/-! ### The result functions (R86, R87) -/

theorem nxtpow2_32_of_nonneg (c : ConfigChoice) {x : Word32} (h : x.msb = false) : nxtpow2_32 c x = roundUp x := by
  rw [nxtpow2_32, if_neg (by simp [h]), nhp2_32_eq_roundUp]

theorem nxtpow2_64_of_nonneg (c : ConfigChoice) {x : Word} (h : x.msb = false) : nxtpow2_64 c x = roundUp x := by
  rw [nxtpow2_64, if_neg (by simp [h]), nhp2_64_eq_roundUp]

theorem msb_operand32 (a : Word) : (a.extractLsb' 0 32).msb = a.getLsbD 31 := by
  simp [BitVec.msb_eq_getLsbD_last]

/-- R63, R80: the Boolean result, by which single bit the operand is. -/
theorem placeBool_ispow2 {w : Nat} (x : BitVec (w + 1)) :
    placeBool (ispow2 x) = if ∃ k ∈ List.range w, x = BitVec.twoPow (w + 1) k then 1#64 else 0#64 :=
  if_congr (ispow2_iff_twoPow x) rfl rfl

/-- R63, R86. -/
theorem place32_nxtpow2_32 (c : ConfigChoice) (x : Word32) :
    place32 (nxtpow2_32 c x) =
      if x.msb = true then (nhp2Neg32 c x).setWidth 64
      else if x = 0#32 then 0#64 else BitVec.ofNat 64 (2 ^ Nat.clog 2 x.toNat) := by
  cases hmsb : x.msb with
  | true => rw [nxtpow2_32, if_pos hmsb, if_pos rfl, place32]
  | false =>
    rw [nxtpow2_32_of_nonneg c hmsb, if_neg Bool.false_ne_true]
    split
    · next hx => rw [hx, roundUp_zero]; rfl
    · next hx =>
      have hpos : 1 ≤ x.toNat := Nat.pos_of_ne_zero fun h0 => hx (BitVec.eq_of_toNat_eq h0)
      have hle : x.toNat ≤ 2 ^ 31 := by have := BitVec.msb_eq_false_iff_two_mul_lt.1 hmsb; omega
      rw [place32, ← BitVec.ofNat_toNat, toNat_roundUp hpos hle]

/-- R87. -/
theorem nxtpow2_64_eq (c : ConfigChoice) (x : Word) :
    nxtpow2_64 c x =
      if x.msb = true then nhp2Neg64 c x
      else if x = 0#64 then 0#64 else BitVec.ofNat 64 (2 ^ Nat.clog 2 x.toNat) := by
  cases hmsb : x.msb with
  | true => rw [nxtpow2_64, if_pos hmsb, if_pos rfl]
  | false => rw [nxtpow2_64_of_nonneg c hmsb, if_neg Bool.false_ne_true, roundUp]

/-- R28: a scalar request in `IDLE` decodes to its instruction and is answered in the one step. -/
theorem scalar_request_answered {i : Instr} {v : Word} {s : State} (hv : scalarOf s.config i = some v)
    (hp : s.phase = .idle) : decode (encode i) = .ok i ∧ exec i s = .next (answered i v s) :=
  ⟨decode_encode i, exec_scalar_idle hv hp⟩

/-! ### The obligations -/

/-- Settles O15: `ispow2_iff_and_sub_one` at both widths. -/
theorem ispow2EquivalentForm : Obligations.Ispow2EquivalentForm :=
  ⟨ispow2_iff_and_sub_one, ispow2_iff_and_sub_one⟩

/-- Settles O16: each step of the fill doubles what is reached (`FilledBy.smear`), so five reach the whole of 32 bits
and six the whole of 64. -/
theorem fillClosedForm : Obligations.FillClosedForm :=
  ⟨⟨rfl, rfl⟩, fun v _ => (fill32_filledBy v).toNat_of_highest_bit,
    fun v _ => (fill64_filledBy v).toNat_of_highest_bit⟩

/-- Settles O17: `roundUp_by_range` at both widths. -/
theorem nhp2ByRange : Obligations.Nhp2ByRange := by
  refine ⟨fun x => ?_, fun x => ?_⟩
  · rw [nhp2_32_eq_roundUp]
    exact roundUp_by_range x
  · rw [nhp2_64_eq_roundUp]
    exact roundUp_by_range x

/-- Settles O18: `rounding_meets_test` at both widths; no configuration function is asked, as no operand is negative. -/
theorem roundingMeetsTheTest : Obligations.RoundingMeetsTheTest :=
  ⟨fun c _ => rounding_meets_test (nxtpow2_32_of_nonneg c), fun c _ => rounding_meets_test (nxtpow2_64_of_nonneg c)⟩

/-- Settles O11: the scalar ACCEPT with the value of `placeBool_ispow2`. -/
theorem ispow2WResult : Obligations.Ispow2WResult := by
  intro s a b start count hp
  rw [← placeBool_ispow2]
  exact scalar_request_answered (i := .ispow2W a b start count) rfl hp

/-- Settles O12: as O11, on the whole of `a`. -/
theorem ispow2DResult : Obligations.Ispow2DResult := by
  intro s a b start count hp
  rw [← placeBool_ispow2]
  exact scalar_request_answered (i := .ispow2D a b start count) rfl hp

/-- Settles O13: the scalar ACCEPT with the value of `place32_nxtpow2_32`; the reference instance is `roundUp`. -/
theorem nxtpow2WResult : Obligations.Nxtpow2WResult := by
  intro s a b start count hp
  rw [← msb_operand32, ← place32_nxtpow2_32, ← and_assoc]
  refine ⟨scalar_request_answered (i := .nxtpow2W a b start count) rfl hp, fun hc hneg => ?_⟩
  rw [hc]
  exact (nhp2_32_eq_roundUp _).trans (roundUp_of_msb hneg)

/-- Settles O14: as O13, on the whole of `a` and with no extension. -/
theorem nxtpow2DResult : Obligations.Nxtpow2DResult := by
  intro s a b start count hp
  have hmsb : a.msb = a.getLsbD 63 := BitVec.msb_eq_getLsbD_last a
  rw [← hmsb, ← nxtpow2_64_eq, ← and_assoc]
  refine ⟨scalar_request_answered (i := .nxtpow2D a b start count) rfl hp, fun hc hneg => ?_⟩
  rw [hc]
  exact (nhp2_64_eq_roundUp a).trans (roundUp_of_msb hneg)

end Sys2Proof.Machine
end

section
/-! PROOFS. The trailing-zero counts (41_trailing_zero_count.md R100 to R107). The model's count is the one number that
meets R100 (`isTrailingZeroCount_ntz64` and `IsTrailingZeroCount.unique`); the two variants answer it on their contract
sets and under the reference instance. -/

namespace Sys2Proof.Machine

/-! ### The trailing-zero count (R100) -/

theorem isTrailingZeroCount_lowestSetBit (w : Word) : IsTrailingZeroCount w (lowestSetBit w) := by
  unfold lowestSetBit
  cases h : (List.range 64).find? fun k => w.getLsbD k with
  | none =>
    have hzero : w = 0#64 :=
      BitVec.eq_of_getLsbD_eq fun k hk => by simpa using List.find?_range_eq_none.1 h k hk
    exact ⟨fun _ => rfl, fun hne => absurd hzero hne⟩
  | some k =>
    obtain ⟨hset, hk, hbelow⟩ := List.find?_range_eq_some.1 h
    refine ⟨fun hw => ?_, fun _ => ⟨List.mem_range.1 hk, hset, fun j hj => by simpa using hbelow j hj⟩⟩
    rw [hw, BitVec.getLsbD_zero] at hset
    exact absurd hset Bool.false_ne_true

theorem IsTrailingZeroCount.lt {w : Word} {n : Nat} (h : IsTrailingZeroCount w n) : n < 64 := by
  by_cases hw : w = 0#64
  · rw [h.1 hw]
    decide
  · exact (h.2 hw).1

/-- R100: no word has two trailing-zero counts: the smaller would be a set bit below the larger. -/
theorem IsTrailingZeroCount.unique {w : Word} {m n : Nat} (hm : IsTrailingZeroCount w m)
    (hn : IsTrailingZeroCount w n) : m = n := by
  by_cases hw : w = 0#64
  · rw [hm.1 hw, hn.1 hw]
  · obtain ⟨-, hmset, hmbelow⟩ := hm.2 hw
    obtain ⟨-, hnset, hnbelow⟩ := hn.2 hw
    obtain hlt | heq | hgt := Nat.lt_trichotomy m n
    · simp [hnbelow m hlt] at hmset
    · exact heq
    · simp [hmbelow n hgt] at hnset

theorem ntz64_eq_of_isTrailingZeroCount {w : Word} {n : Nat} (h : IsTrailingZeroCount w n) :
    ntz64 w = BitVec.ofNat 6 n := by
  rw [ntz64, (isTrailingZeroCount_lowestSetBit w).unique h]

/-- R101: six bits hold every count. -/
theorem toNat_ntz64 (w : Word) : (ntz64 w).toNat = lowestSetBit w :=
  (BitVec.toNat_ofNat ..).trans (Nat.mod_eq_of_lt (isTrailingZeroCount_lowestSetBit w).lt)

theorem isTrailingZeroCount_ntz64 (w : Word) : IsTrailingZeroCount w (ntz64 w).toNat := by
  rw [toNat_ntz64]
  exact isTrailingZeroCount_lowestSetBit w

/-! ### Single bits (R102, R106) -/

theorem singleBit_iff (w : Word) : singleBit w = true ↔ IsSingleBit w := by
  rw [singleBit, beq_iff_eq]
  exact popcount_eq_one_iff w

theorem isTrailingZeroCount_twoPow {n : Nat} (hn : n < 64) : IsTrailingZeroCount (BitVec.twoPow 64 n) n := by
  have hbit (j : Nat) : (BitVec.twoPow 64 n).getLsbD j = decide (n = j) := by simp [BitVec.getLsbD_twoPow, hn]
  refine ⟨fun h0 => ?_, fun _ => ⟨hn, by simp [hbit], fun j hj => by simp [hbit, hj.ne']⟩⟩
  simpa [h0] using hbit n

/-- R106: negation keeps the bits up to the lowest set one and inverts those above it. -/
theorem IsTrailingZeroCount.and_neg_self {w : Word} {n : Nat} (h : IsTrailingZeroCount w n) (hw : w ≠ 0#64) :
    w &&& (0#64 - w) = BitVec.twoPow 64 n := by
  obtain ⟨hn, hset, hbelow⟩ := h.2 hw
  refine BitVec.eq_of_getLsbD_eq fun j hj => ?_
  rw [BitVec.zero_sub, BitVec.getLsbD_and, BitVec.getLsbD_neg, BitVec.getLsbD_twoPow]
  obtain hlt | rfl | hgt := Nat.lt_trichotomy j n
  · simp [hbelow j hlt, hlt.ne']
  · have hnone : ¬∃ k < j, w.getLsbD k = true := fun ⟨k, hk, hkset⟩ => by simp [hbelow k hk] at hkset
    simp [hset, hnone, hn]
  · have hsome : ∃ k < j, w.getLsbD k = true := ⟨n, hgt, hset⟩
    simp [hsome, hj, hgt.ne]

/-- R107: the bits of the mask below bit `n`. -/
theorem getLsbD_twoPow_sub_one {n : Nat} (hn : n < 64) (j : Nat) :
    (BitVec.twoPow 64 n - 1#64).getLsbD j = decide (j < n) := by
  have hne : BitVec.twoPow 64 n ≠ 0#64 := fun h0 =>
    (Nat.two_pow_pos n).ne ((congrArg BitVec.toNat h0).symm.trans (BitVec.toNat_twoPow_of_lt hn))
  rw [← BitVec.testBit_toNat, toNat_sub_one hne, BitVec.toNat_twoPow_of_lt hn, Nat.testBit_two_pow_sub_one]

/-- R107: below the trailing-zero count no bit is set. -/
theorem IsTrailingZeroCount.and_mask_below {w : Word} {n : Nat} (h : IsTrailingZeroCount w n) (hw : w ≠ 0#64) :
    w &&& ((1#64 <<< n) - 1#64) = 0#64 := by
  obtain ⟨hn, -, hbelow⟩ := h.2 hw
  refine BitVec.eq_of_getLsbD_eq fun j _ => ?_
  rw [← BitVec.twoPow_eq, BitVec.getLsbD_and, getLsbD_twoPow_sub_one hn, BitVec.getLsbD_zero]
  by_cases hj : j < n
  · rw [hbelow j hj, Bool.false_and]
  · rw [decide_eq_false hj, Bool.and_false]

/-! ### The variants (R103, R105) -/

theorem ntz2Contract_iff (w : Word) :
    ntz2Contract w = true ↔ w = 0#64 ∨ IsSingleBit w ∨ w = 124555952128#64 ∨ w = 1376285#64 := by
  simp only [ntz2Contract, Bool.or_eq_true, beq_iff_eq, singleBit_iff, or_assoc]

theorem ntz3Contract_iff (w : Word) : ntz3Contract w = true ↔ w = 0#64 ∨ IsSingleBit w := by
  simp only [ntz3Contract, Bool.or_eq_true, beq_iff_eq, singleBit_iff]

theorem ntz2_64_of_contract (c : ConfigChoice) {w : Word} (h : ntz2Contract w = true) : ntz2_64 c w = ntz64 w :=
  if_pos h

theorem ntz3_64_of_contract (c : ConfigChoice) {w : Word} (h : ntz3Contract w = true) : ntz3_64 c w = ntz64 w :=
  if_pos h

theorem ntz2_64_of_singleBit (c : ConfigChoice) {w : Word} (h : IsSingleBit w) : ntz2_64 c w = ntz64 w :=
  ntz2_64_of_contract c ((ntz2Contract_iff w).2 (.inr (.inl h)))

theorem ntz3_64_of_singleBit (c : ConfigChoice) {w : Word} (h : IsSingleBit w) : ntz3_64 c w = ntz64 w :=
  ntz3_64_of_contract c ((ntz3Contract_iff w).2 (.inr h))

theorem ntz2_64_reference (w : Word) : ntz2_64 .reference w = ntz64 w := ite_self _

theorem ntz3_64_reference (w : Word) : ntz3_64 .reference w = ntz64 w := ite_self _

/-- R63: a count is placed as the number it is. -/
theorem placeCount_eq_ofNat (x : BitVec 6) : placeCount x = BitVec.ofNat 64 x.toNat := (BitVec.ofNat_toNat 64 x).symm

/-- R103, R105: a variant that answers `x` for the operand `a`, where `x` is the trailing-zero count on the contract
set `InContract` and under the reference instance, and `ooc` outside the contract set. -/
theorem variant_request_answered {i : Instr} {s : State} {a : Word} {x ooc : BitVec 6} {InContract : Prop}
    (hv : scalarOf s.config i = some (placeCount x)) (hp : s.phase = .idle) (hin : InContract → x = ntz64 a)
    (hout : ¬InContract → x = ooc) (href : s.config = .reference → x = ntz64 a) :
    decode (encode i) = .ok i ∧
      ∃ n < 64, exec i s = .next (answered i (BitVec.ofNat 64 n) s) ∧ (InContract → IsTrailingZeroCount a n) ∧
        (¬InContract → n = ooc.toNat) ∧ (s.config = .reference → IsTrailingZeroCount a n) := by
  have hcount (hx : x = ntz64 a) : IsTrailingZeroCount a x.toNat := hx ▸ isTrailingZeroCount_ntz64 a
  rw [placeCount_eq_ofNat] at hv
  obtain ⟨hdecode, hexec⟩ := scalar_request_answered hv hp
  exact ⟨hdecode, x.toNat, x.isLt, hexec, fun h => hcount (hin h), fun h => congrArg BitVec.toNat (hout h),
    fun h => hcount (href h)⟩

/-! ### The obligations -/

/-- Settles O19: the scalar ACCEPT with the count of `isTrailingZeroCount_ntz64`. -/
theorem ntzResult : Obligations.NtzResult := by
  intro s a b start count hp
  obtain ⟨hdecode, hexec⟩ := scalar_request_answered (i := .ntz a b start count) rfl hp
  exact ⟨hdecode, (ntz64 a).toNat, isTrailingZeroCount_ntz64 a, placeCount_eq_ofNat (ntz64 a) ▸ hexec⟩

/-- Settles O20: `variant_request_answered` with the contract set of `ntz2Contract_iff`. -/
theorem ntz2Result : Obligations.Ntz2Result := by
  intro s a b start count hp
  rw [← ntz2Contract_iff]
  exact variant_request_answered (i := .ntz2 a b start count) rfl hp (ntz2_64_of_contract s.config)
    (fun h => if_neg h) (fun hc => hc ▸ ntz2_64_reference a)

/-- Settles O21: `variant_request_answered` with the contract set of `ntz3Contract_iff`. -/
theorem ntz3Result : Obligations.Ntz3Result := by
  intro s a b start count hp
  rw [← ntz3Contract_iff]
  exact variant_request_answered (i := .ntz3 a b start count) rfl hp (ntz3_64_of_contract s.config)
    (fun h => if_neg h) (fun hc => hc ▸ ntz3_64_reference a)

/-- Settles O22: the isolated lowest bit is the single bit at the count of `w` (`IsTrailingZeroCount.and_neg_self`), and
that bit has the same count. -/
theorem isolatedLowBitAgreement : Obligations.IsolatedLowBitAgreement := by
  intro c w hw
  have hw64 : lowestSetBit w < 64 := (isTrailingZeroCount_lowestSetBit w).lt
  have hsingle : IsSingleBit (BitVec.twoPow 64 (lowestSetBit w)) := ⟨_, hw64, rfl⟩
  have hntz : ntz64 (BitVec.twoPow 64 (lowestSetBit w)) = ntz64 w :=
    ntz64_eq_of_isTrailingZeroCount (isTrailingZeroCount_twoPow hw64)
  rw [(isTrailingZeroCount_lowestSetBit w).and_neg_self hw, ntz2_64_of_singleBit c hsingle,
    ntz3_64_of_singleBit c hsingle]
  exact ⟨hsingle, hntz, hntz, hntz⟩

/-- R107: the first check, that the bit at the count is set. -/
theorem getLsbD_ushiftRight_ntz64 {w : Word} (hw : w ≠ 0#64) : (w >>> (ntz64 w).toNat).getLsbD 0 = true := by
  obtain ⟨-, hset, -⟩ := (isTrailingZeroCount_ntz64 w).2 hw
  rw [BitVec.getLsbD_ushiftRight, Nat.add_zero, hset]

/-- R107: the literal cases are of the contract sets. -/
theorem ntz_literals (c : ConfigChoice) :
    ntz2_64 c 124555952128#64 = 16#6 ∧ ntz2_64 c 1376285#64 = 0#6 ∧ ntz3_64 c 8#64 = 3#6 ∧
      ntz3_64 c 4611686018427387904#64 = 62#6 := by
  refine ⟨?_, ?_, ?_, ?_⟩
  · rw [ntz2_64_of_contract c (by decide)]
    decide
  · rw [ntz2_64_of_contract c (by decide)]
    decide
  · rw [ntz3_64_of_contract c (by decide)]
    decide
  · rw [ntz3_64_of_contract c (by decide)]
    decide

/-- Settles O23: the two checks are what R100 says of the count, the variants answer it on single bits, and
`ntz_literals`. -/
theorem trailingZeroProperties : Obligations.TrailingZeroProperties :=
  ⟨rfl, fun w hw => ⟨getLsbD_ushiftRight_ntz64 hw, (isTrailingZeroCount_ntz64 w).and_mask_below hw⟩,
    fun c _ h => ⟨ntz2_64_of_singleBit c h, ntz3_64_of_singleBit c h⟩, ntz_literals⟩

end Sys2Proof.Machine
end

section
/-! PROOFS. The population-count reductions (42_popcount_reductions.md R120 to R130): the total of a window is bounded,
the loop of R122 over a window that answers with data ends with the total, and the laws of R130 hold of the totals
because they hold bit by bit. -/

namespace Sys2Proof.Machine

/-- Settles O25: ACCEPT of a reduction whose window is empty. -/
theorem emptyWindowAnswersZero : Obligations.EmptyWindowAnswersZero := by
  intro s i hi hcount hp
  obtain ⟨g, p, hr⟩ := exists_reductionOf hi
  have hzero : i.count.toNat = 0 := congrArg BitVec.toNat hcount
  rw [exec_reduction_idle hr hp, acceptReduction_empty hzero]
  rfl

/-! ### The total of a window (R122, R123) -/

theorem windowTotal_eq_sum (g : Word → Word → Word) (x y : Nat → Word) (n : Nat) :
    windowTotal g x y n = ∑ j ∈ Finset.range n, popcount (g (x j) (y j)) := rfl

/-- R123: each element adds at most 64. -/
theorem windowTotal_le (g : Word → Word → Word) (x y : Nat → Word) (n : Nat) :
    windowTotal g x y n ≤ 64 * n := by
  have hsum := Finset.sum_le_card_nsmul (Finset.range n) (fun j => popcount (g (x j) (y j))) 64
    fun _ _ => popcount_le _
  rwa [Finset.card_range, smul_eq_mul, Nat.mul_comm] at hsum

theorem ofNat_windowTotal_succ (g : Word → Word → Word) (x y : Nat → Word) (n : Nat) :
    BitVec.ofNat 64 (windowTotal g x y n) + BitVec.ofNat 64 (popcount (g (x n) (y n))) =
      BitVec.ofNat 64 (windowTotal g x y (n + 1)) := by
  rw [windowTotal_eq_sum, windowTotal_eq_sum, Finset.sum_range_succ, BitVec.ofNat_add]

/-- R123: a window that a request can express has fewer than `2^32` elements. -/
theorem windowTotal_le_max (g : Word → Word → Word) (x y : Nat → Word) (count : Word32) :
    windowTotal g x y count.toNat ≤ 0x3FFFFFFFC0 := by
  have htotal := windowTotal_le g x y count.toNat
  have hcount := count.isLt
  omega

/-- R123: the 64-bit pattern of a total holds the total. -/
theorem toNat_windowTotal (g : Word → Word → Word) (x y : Nat → Word) (count : Word32) :
    (BitVec.ofNat 64 (windowTotal g x y count.toNat)).toNat = windowTotal g x y count.toNat := by
  have htotal := windowTotal_le_max g x y count
  rw [BitVec.toNat_ofNat, Nat.mod_eq_of_lt (by omega)]

/-- Settles O36: 64 for each element, and the pattern of a number below `2^63` is nonnegative. -/
theorem totalCannotOverflow : Obligations.TotalCannotOverflow := by
  intro g x y count
  have hmax := windowTotal_le_max g x y count
  have hpattern := toNat_windowTotal g x y count
  refine ⟨windowTotal_le .., hmax, ?_⟩
  rw [BitVec.toInt_eq_toNat_of_lt (by omega), hpattern]

/-! ### The response of a window that answers with data (R122) -/

/-- The platform answers the reads of a window of `n` elements with the words `x j` of array A and, for a pairwise
reduction, `y j` of array B; a reduction of one array takes 0 for `y j` (R122). -/
structure WindowData (m : Memory) (p : Bool) (a b : Word) (start : Word32) (n : Nat) (x y : Nat → Word) : Prop where
  arrayA : ∀ j < n, m.word? (elementAddress a start j) = some (x j)
  arrayB : p = true → ∀ j < n, m.word? (elementAddress b start j) = some (y j)
  single : p = false → ∀ j, y j = 0#64

section
variable {m : Memory} {g : Word → Word → Word} {p : Bool} {a b : Word} {start : Word32} {n : Nat}
  {x y : Nat → Word}

/-- R122: one turn of the loop counts the element. -/
theorem WindowData.reduceFrom_succ (h : WindowData m p a b start n x y) {j : Nat} (hj : j < n) (k : Nat)
    (acc : Word) :
    reduceFrom m g p a b start (k + 1) j acc =
      reduceFrom m g p a b start k (j + 1) (acc + BitVec.ofNat 64 (popcount (g (x j) (y j)))) := by
  cases p with
  | false => rw [reduceFrom_single (h.arrayA j hj), h.single rfl j]
  | true => rw [reduceFrom_pair (h.arrayA j hj) (h.arrayB rfl j hj)]

/-- R122: the loop, by the number of elements still to be read. -/
theorem WindowData.reduceFrom_eq (h : WindowData m p a b start n x y) {k j : Nat} (hk : j + k = n) :
    reduceFrom m g p a b start k j (BitVec.ofNat 64 (windowTotal g x y j)) =
      responseOf statusOk (BitVec.ofNat 64 (windowTotal g x y n)) := by
  induction k generalizing j with
  | zero => rw [← hk]; rfl
  | succ k ih =>
    rw [h.reduceFrom_succ (by omega), ofNat_windowTotal_succ]
    exact ih (by omega)

end

/-- R122: a reduction over a window that answers with data is owed its total. -/
theorem responseTo_windowData {i : Instr} {g : Word → Word → Word} {p : Bool} {m : Memory} {x y : Nat → Word}
    (hr : reductionOf i = some (g, p)) (h : WindowData m p i.a i.b i.start i.count.toNat x y) (c : ConfigChoice) :
    responseTo c m (encode i) = responseOf statusOk (BitVec.ofNat 64 (windowTotal g x y i.count.toNat)) := by
  rw [responseTo_reduction hr]
  exact h.reduceFrom_eq (Nat.zero_add _)

/-! ### The laws of the combines (R130), bit by bit -/

theorem popcount_eq_sum {w : Nat} (v : BitVec w) : popcount v = ∑ k ∈ Finset.range w, (v.getLsbD k).toNat := rfl

/-- A law that holds at every bit holds of the numbers of set bits. -/
theorem popcount_add_eq_sum {w : Nat} {u v : BitVec w} {f : Nat → Nat}
    (h : ∀ k < w, (u.getLsbD k).toNat + (v.getLsbD k).toNat = f k) :
    popcount u + popcount v = ∑ k ∈ Finset.range w, f k := by
  rw [popcount_eq_sum, popcount_eq_sum, ← Finset.sum_add_distrib]
  exact Finset.sum_congr rfl fun k hk => h k (Finset.mem_range.1 hk)

/-- R130, partition: a set bit of `x` is clear in `y` or set in `y`. -/
theorem popcount_andn_add_int (x y : Word) :
    popcount (combineAndn x y) + popcount (combineInt x y) = popcount x := by
  rw [popcount_eq_sum x]
  refine popcount_add_eq_sum fun k hk => ?_
  simp only [combineAndn, combineInt, BitVec.getLsbD_and, BitVec.getLsbD_not, hk]
  cases x.getLsbD k <;> cases y.getLsbD k <;> rfl

/-- R130, inclusion and exclusion: a bit set in both words is counted twice on both sides. -/
theorem popcount_uni_add_int (x y : Word) :
    popcount (combineUni x y) + popcount (combineInt x y) = popcount x + popcount y := by
  rw [popcount_eq_sum x, popcount_eq_sum y, ← Finset.sum_add_distrib]
  refine popcount_add_eq_sum fun k _ => ?_
  simp only [combineUni, combineInt, BitVec.getLsbD_and, BitVec.getLsbD_or]
  cases x.getLsbD k <;> cases y.getLsbD k <;> rfl

/-- R130, XOR: a bit set in `x` or `y` is set in one of them or in both. -/
theorem popcount_xor_add_int (x y : Word) :
    popcount (combineXor x y) + popcount (combineInt x y) = popcount (combineUni x y) := by
  rw [popcount_eq_sum (combineUni x y)]
  refine popcount_add_eq_sum fun k _ => ?_
  simp only [combineXor, combineInt, combineUni, BitVec.getLsbD_and, BitVec.getLsbD_or, BitVec.getLsbD_xor]
  cases x.getLsbD k <;> cases y.getLsbD k <;> rfl

/-! ### The laws of the totals (R130) -/

/-- R130: a sum law of the combines, element by element, is a law of the totals. -/
theorem windowTotal_add {g g' h : Word → Word → Word}
    (hlaw : ∀ u v, popcount (g u v) + popcount (g' u v) = popcount (h u v)) (x y : Nat → Word) (n : Nat) :
    windowTotal g x y n + windowTotal g' x y n = windowTotal h x y n := by
  simp only [windowTotal_eq_sum, ← Finset.sum_add_distrib, hlaw]

theorem windowTotal_uni_add_int (x y x' y' : Nat → Word) (n : Nat) :
    windowTotal combineUni x y n + windowTotal combineInt x y n =
      windowTotal combineArr x x' n + windowTotal combineArr y y' n := by
  simp only [windowTotal_eq_sum, ← Finset.sum_add_distrib, popcount_uni_add_int, combineArr]

theorem windowTotal_comm {g : Word → Word → Word} (hg : ∀ u v, g u v = g v u) (x y : Nat → Word) (n : Nat) :
    windowTotal g x y n = windowTotal g y x n := by
  rw [windowTotal_eq_sum, windowTotal_eq_sum]
  exact Finset.sum_congr rfl fun _ _ => congrArg popcount (hg _ _)

/-! ### The laws of the responses (R130) -/

/-- The word that the array at `base` has at element `j`. -/
def windowWord (m : Memory) (base : Word) (start : Word32) (j : Nat) : Word :=
  (m.word? (elementAddress base start j)).getD 0#64

theorem word?_eq_windowWord {m : Memory} {base : Word} {start : Word32} {j : Nat}
    (h : m.word? (elementAddress base start j) ≠ none) :
    m.word? (elementAddress base start j) = some (windowWord m base start j) := by
  obtain ⟨d, hd⟩ := Option.ne_none_iff_exists'.1 h
  rw [windowWord, hd, Option.getD_some]

section
variable {m : Memory} {a b : Word} {start : Word32} {n : Nat}
  (ha : ∀ j < n, m.word? (elementAddress a start j) ≠ none)
include ha

theorem windowData_single (b : Word) : WindowData m false a b start n (windowWord m a start) fun _ => 0#64 where
  arrayA j hj := word?_eq_windowWord (ha j hj)
  arrayB := nofun
  single _ _ := rfl

theorem windowData_pair (hb : ∀ j < n, m.word? (elementAddress b start j) ≠ none) :
    WindowData m true a b start n (windowWord m a start) (windowWord m b start) where
  arrayA j hj := word?_eq_windowWord (ha j hj)
  arrayB _ j hj := word?_eq_windowWord (hb j hj)
  single := nofun

end

/-- The value of the response a request is owed, as a number. -/
def owedValue (c : ConfigChoice) (m : Memory) (i : Instr) : Nat := (responseValue (responseTo c m (encode i))).toNat

section
variable {i : Instr} {g : Word → Word → Word} {p : Bool} {m : Memory} {x y : Nat → Word}
  (h : WindowData m p i.a i.b i.start i.count.toNat x y) (hr : reductionOf i = some (g, p)) (c : ConfigChoice)
include h hr

theorem WindowData.status_ok : responseStatus (responseTo c m (encode i)) = statusOk := by
  rw [responseTo_windowData hr h, responseStatus_responseOf]

theorem WindowData.owedValue_eq : owedValue c m i = windowTotal g x y i.count.toNat := by
  rw [owedValue, responseTo_windowData hr h, responseValue_responseOf, toNat_windowTotal]

end

/-- R130, symmetry: the two arrays of a reduction with a commutative combine can be exchanged. -/
theorem owedValue_comm {i i' : Instr} {g : Word → Word → Word} {m : Memory} {x y : Nat → Word}
    (hg : ∀ u v, g u v = g v u) (hr : reductionOf i = some (g, true)) (hr' : reductionOf i' = some (g, true))
    (h : WindowData m true i.a i.b i.start i.count.toNat x y)
    (h' : WindowData m true i'.a i'.b i'.start i'.count.toNat y x) (hcount : i.count = i'.count) (c : ConfigChoice) :
    owedValue c m i = owedValue c m i' := by
  rw [h.owedValue_eq hr, h'.owedValue_eq hr', hcount, windowTotal_comm hg]

/-- R130: with a word of one set bit and a word of none, `POPANDN` answers 1 one way and 0 the other way. -/
theorem popandn_not_symmetric :
    ∃ (m : Memory) (a b : Word), m.word? a ≠ none ∧ m.word? b ≠ none ∧
      responseTo .reference m (encode (.popandn a b 0#32 1#32)) ≠
        responseTo .reference m (encode (.popandn b a 0#32 1#32)) :=
  ⟨(Memory.setWord [] 0#64 1#64).setWord 1#64 0#64, 0#64, 1#64, by decide, by decide, by decide⟩

/-- Settles O37: over a window that answers with data every value is a window total (`WindowData.owedValue_eq`), and
each law is one of the totals. -/
theorem reductionLaws : Obligations.ReductionLaws := by
  unfold Obligations.ReductionLaws
  refine ⟨popandn_not_symmetric, ?_⟩
  intro c m a b start count h value
  have hvalue : value = owedValue c m := rfl
  have ha (j) (hj : j < count.toNat) := (h j hj).1
  have hb (j) (hj : j < count.toNat) := (h j hj).2
  have hsingle := windowData_single ha b
  have hab := windowData_pair ha hb
  have hba := windowData_pair hb ha
  have harr : owedValue c m (.poparr a b start count) =
      windowTotal combineArr (windowWord m a start) _ count.toNat :=
    hsingle.owedValue_eq (i := .poparr a b start count) rfl c
  have harr' : owedValue c m (.poparr b a start count) =
      windowTotal combineArr (windowWord m b start) _ count.toNat :=
    (windowData_single hb a).owedValue_eq (i := .poparr b a start count) rfl c
  have handn : owedValue c m (.popandn a b start count) = windowTotal combineAndn _ _ count.toNat :=
    hab.owedValue_eq (i := .popandn a b start count) rfl c
  have hint : owedValue c m (.popint a b start count) = windowTotal combineInt _ _ count.toNat :=
    hab.owedValue_eq (i := .popint a b start count) rfl c
  have huni : owedValue c m (.popuni a b start count) = windowTotal combineUni _ _ count.toNat :=
    hab.owedValue_eq (i := .popuni a b start count) rfl c
  have hxor : owedValue c m (.popxor a b start count) = windowTotal combineXor _ _ count.toNat :=
    hab.owedValue_eq (i := .popxor a b start count) rfl c
  rw [hvalue]
  refine ⟨fun i hi => ?_, ?_, ?_, ?_, ?_, ?_, ?_, harr⟩
  · simp only [List.mem_cons, List.not_mem_nil, or_false] at hi
    rcases hi with rfl | rfl | rfl | rfl | rfl
    · exact hsingle.status_ok (i := .poparr a b start count) rfl c
    · exact hab.status_ok (i := .popandn a b start count) rfl c
    · exact hab.status_ok (i := .popint a b start count) rfl c
    · exact hab.status_ok (i := .popuni a b start count) rfl c
    · exact hab.status_ok (i := .popxor a b start count) rfl c
  · rw [handn, hint, harr]
    exact windowTotal_add popcount_andn_add_int ..
  · rw [huni, hint, harr, harr']
    exact windowTotal_uni_add_int ..
  · rw [hxor, hint, huni]
    exact windowTotal_add popcount_xor_add_int ..
  · exact owedValue_comm (i := .popint a b start count) (i' := .popint b a start count) BitVec.and_comm rfl rfl
      hab hba rfl c
  · exact owedValue_comm (i := .popuni a b start count) (i' := .popuni b a start count) BitVec.or_comm rfl rfl
      hab hba rfl c
  · exact owedValue_comm (i := .popxor a b start count) (i' := .popxor b a start count) BitVec.xor_comm rfl rfl
      hab hba rfl c

end Sys2Proof.Machine
end

section
/-! PROOFS. The run of a reduction over a window that answers with data: one step for each read, and the reads of R47
in order (20_memory.md R47, 42_popcount_reductions.md R122, 70_reset_and_hazards.md R178). -/

namespace Sys2Proof.Machine

/-! ### The reads of a window (R47) -/

/-- R47: the reads of window element `j`, in order. -/
def elementReads (p : Bool) (a b : Word) (start : Word32) (j : Nat) : List Word :=
  if p then [elementAddress a start j, elementAddress b start j] else [elementAddress a start j]

theorem elementReads_single (a b : Word) (start : Word32) (j : Nat) :
    elementReads false a b start j = [elementAddress a start j] := rfl

theorem elementReads_pair (a b : Word) (start : Word32) (j : Nat) :
    elementReads true a b start j = [elementAddress a start j, elementAddress b start j] := rfl

theorem windowReads_eq_flatMap (p : Bool) (a b : Word) (start : Word32) (n : Nat) :
    windowReads p a b start n = (List.range n).flatMap (elementReads p a b start) := rfl

theorem length_windowReads (p : Bool) (a b : Word) (start : Word32) (n : Nat) :
    (windowReads p a b start n).length = if p then 2 * n else n := by
  cases p <;> simp [windowReads_eq_flatMap, List.length_flatMap, elementReads, Nat.mul_comm]

/-! ### One step for each read -/

/-- From `s` the unit takes one step for each of the reads `was`, sends exactly these, and is `DONE` with the response
`out`; the packet, memory, the other channels and the configuration are as before, and no agent is about to act. -/
def AnswersAfter (was : List Word) (out : Response) (s : State) : Prop :=
  ∃ t, Sys2Proof.core.run was.length s = .next t ∧ t.phase = .done ∧ t.cur = s.cur ∧ t.out = out ∧
    t.reads = s.reads ++ was ∧ t.mem = s.mem ∧ t.reqs = s.reqs ∧ t.rsps = s.rsps ∧ t.config = s.config ∧ Quiet t

theorem answersAfter_nil {s : State} {out : Response} (hq : Quiet s) (hp : s.phase = .done) (hout : s.out = out) :
    AnswersAfter [] out s :=
  ⟨s, run_zero s, hp, rfl, hout, (List.append_nil _).symm, rfl, rfl, rfl, rfl, hq⟩

/-- R29, R62: a READ that the platform answers sends the address of the next word. -/
theorem readStep_reads_ready {s : State} (hm : s.memReady = true) (g : Word → Word → Word) (p : Bool) (a b : Word)
    (start count : Word32) :
    (readStep g p a b start count s).reads = s.reads ++ [nextAddress a b start s] := by
  rcases readStep_cases g p a b start count s with ⟨hw, -⟩ | ⟨-, -, h⟩ | ⟨-, -, -, d, -, h⟩ | ⟨-, -, d, -, h⟩
  · rw [hm] at hw; cases hw
  · rw [h]; rfl
  · rw [h]; rfl
  · obtain ⟨-, -, -, -, hreads, -⟩ := countElement_frame (if p then g s.waReg d else g d 0#64) count
      (sendRead (nextAddress a b start s) s)
    rw [h, hreads]; rfl

/-- A reduction is in flight over a window that answers with the words `x` of array A and `y` of array B. -/
structure ReducingData (g : Word → Word → Word) (p : Bool) (x y : Nat → Word) (s : State) : Prop
    extends Reducing g p s where
  data : WindowData s.mem p s.cur.a s.cur.b s.cur.start s.cur.count.toNat x y

section
variable {g : Word → Word → Word} {p : Bool} {x y : Nat → Word} {s : State} {was : List Word} {out : Response}

/-- R29: one READ nearer to the answer. -/
theorem Reducing.answersAfter_cons (h : Reducing g p s)
    (hread : AnswersAfter was out (readStep g p s.cur.a s.cur.b s.cur.start s.cur.count s)) :
    AnswersAfter (nextAddress s.cur.a s.cur.b s.cur.start s :: was) out s := by
  obtain ⟨t, hrun, hphase, hcur, hout, hreads, hmem, hreqs, hrsps, hconfig, hquiet⟩ := hread
  obtain ⟨fcur, freqs, frsps, -, -, fmem, -, fconfig, -⟩ :=
    readStep_frame g p s.cur.a s.cur.b s.cur.start s.cur.count s
  rw [readStep_reads_ready h.quiet.2, List.append_assoc, List.singleton_append] at hreads
  exact ⟨t, (run_succ_next h.step_eq was.length).trans hrun, hphase, hcur.trans fcur, hout, hreads,
    hmem.trans fmem, hreqs.trans freqs, hrsps.trans frsps, hconfig.trans fconfig, hquiet⟩

/-- R29, R122: the second READ of an element of a pairwise reduction counts the element. -/
theorem ReducingData.answersAfter_second (h : ReducingData g true x y s) (hsel : s.sel = .b)
    (hi : s.i.toNat < s.cur.count.toNat)
    (hcount : AnswersAfter was out (countElement (g s.waReg (y s.i.toNat)) s.cur.count
      (sendRead (elementAddress s.cur.b s.cur.start s.i.toNat) s))) :
    AnswersAfter (elementAddress s.cur.b s.cur.start s.i.toNat :: was) out s := by
  have hy := h.data.arrayB rfl _ hi
  rw [← nextAddress_b hsel s.cur.a s.cur.b s.cur.start] at hy hcount ⊢
  apply h.answersAfter_cons
  rwa [readStep_data_count h.quiet.2 g _ (by simp [hsel]) hy, if_pos rfl]

/-- R122: one turn of the loop, in one or two READs. They change nothing of the record but `waReg` and `sel`; `hrest`
says that once the element is counted the reads `was` are left and `out` is the answer. -/
theorem ReducingData.answersAfter_element (h : ReducingData g p x y s) (hsel : s.sel = .a)
    (hi : s.i.toNat < s.cur.count.toNat)
    (hrest : ∀ (sent : List Word) (held : Word) (next : Sel),
      AnswersAfter was out (countElement (g (x s.i.toNat) (y s.i.toNat)) s.cur.count
        { s with reads := sent, waReg := held, sel := next })) :
    AnswersAfter (elementReads p s.cur.a s.cur.b s.cur.start s.i.toNat ++ was) out s := by
  have haddr := nextAddress_a hsel s.cur.a s.cur.b s.cur.start
  have hx := haddr.symm ▸ h.data.arrayA _ hi
  cases p with
  | false =>
    rw [elementReads_single, List.singleton_append, ← haddr]
    apply h.answersAfter_cons
    rw [readStep_data_count h.quiet.2 g _ (by simp) hx, if_neg Bool.false_ne_true, ← h.data.single rfl s.i.toNat]
    exact hrest ..
  | true =>
    rw [elementReads_pair, List.cons_append, List.singleton_append, ← haddr]
    apply h.answersAfter_cons
    rw [readStep_data_first h.quiet.2 g _ hsel hx]
    exact ReducingData.answersAfter_second (s := { sendRead _ s with waReg := x s.i.toNat, sel := .b })
      ⟨⟨h.quiet, h.busy, h.operation⟩, h.data⟩ rfl hi (hrest ..)

/-- R122: the loop, with `n` elements still to be read after the next one. -/
theorem ReducingData.answersAfter_loop (n : Nat) {s : State} (h : ReducingData g p x y s) (hsel : s.sel = .a)
    (hn : s.i.toNat + 1 + n = s.cur.count.toNat) (hacc : s.acc = BitVec.ofNat 64 (windowTotal g x y s.i.toNat)) :
    AnswersAfter ((List.range' s.i.toNat (n + 1)).flatMap (elementReads p s.cur.a s.cur.b s.cur.start))
      (responseOf statusOk (BitVec.ofNat 64 (windowTotal g x y s.cur.count.toNat))) s := by
  have hlt : s.i.toNat < s.cur.count.toNat := by omega
  have hi : (s.i + 1#33).toNat = s.i.toNat + 1 := next_index_toNat hlt
  rw [List.range'_succ, List.flatMap_cons]
  induction n generalizing s with
  | zero =>
    refine h.answersAfter_element hsel hlt fun sent held next => ?_
    rw [countElement_last (s := { s with reads := sent, waReg := held, sel := next }) (hi.trans hn)]
    simp only [hacc, ofNat_windowTotal_succ, ← hn]
    exact answersAfter_nil h.quiet rfl rfl
  | succ n ih =>
    refine h.answersAfter_element hsel hlt fun sent held next => ?_
    have hmore : (s.i + 1#33).toNat ≠ s.cur.count.toNat := by omega
    rw [countElement_more (s := { s with reads := sent, waReg := held, sel := next }) hmore, List.range'_succ,
      List.flatMap_cons]
    simp only [hacc, ofNat_windowTotal_succ, ← hi]
    have hn' : (s.i + 1#33).toNat + 1 + n = s.cur.count.toNat := by omega
    have hlt' : (s.i + 1#33).toNat < s.cur.count.toNat := by omega
    exact ih (s := { s with
        reads := sent, waReg := held, sel := .a, i := s.i + 1#33
        acc := BitVec.ofNat 64 (windowTotal g x y (s.i + 1#33).toNat) })
      ⟨⟨h.quiet, h.busy, h.operation⟩, h.data⟩ rfl hn' rfl hlt' (next_index_toNat hlt')

end

/-- What ACCEPT of a reduction leaves alone, and the packet it captures. -/
theorem acceptReduction_frame (r : Request) (count : Word32) (s : State) :
    (acceptReduction r count s).cur = r ∧ (acceptReduction r count s).mem = s.mem ∧
      (acceptReduction r count s).reqs = s.reqs ∧ (acceptReduction r count s).rsps = s.rsps ∧
      (acceptReduction r count s).config = s.config ∧ (acceptReduction r count s).reads = s.reads := by
  by_cases h : count.toNat = 0
  · simp [acceptReduction_empty h]
  · simp [acceptReduction_starts h]

/-- R28, R122: a reduction just accepted, over a window that answers with data. -/
theorem answersAfter_acceptReduction {i : Instr} {g : Word → Word → Word} {p : Bool} {x y : Nat → Word}
    {s : State} (hq : Quiet s) (hr : reductionOf i = some (g, p))
    (hdata : WindowData s.mem p i.a i.b i.start i.count.toNat x y) :
    AnswersAfter (windowReads p i.a i.b i.start i.count.toNat)
      (responseOf statusOk (BitVec.ofNat 64 (windowTotal g x y i.count.toNat)))
      (acceptReduction (encode i) i.count s) := by
  rw [windowReads_eq_flatMap]
  cases hc : i.count.toNat with
  | zero =>
    rw [acceptReduction_empty hc]
    exact answersAfter_nil hq rfl rfl
  | succ n =>
    rw [acceptReduction_starts (by omega), List.range_eq_range']
    have hop : operationOf s.config (encode i).op = .reduction g p := by
      rw [op_encode]
      exact operationOf_opcode_reduction hr s.config
    have h : ReducingData g p x y { s with cur := encode i, i := 0#33, sel := .a, acc := 0#64, phase := .busy } :=
      ⟨⟨hq, rfl, hop⟩, by simpa using hdata⟩
    have hloop := h.answersAfter_loop n rfl (by simp [hc, Nat.add_comm]) rfl
    simpa [hc] using hloop

/-- Settles O32: one step accepts the request, and `answersAfter_acceptReduction`. -/
theorem reductionAnswersTheTotal : Obligations.ReductionAnswersTheTotal := by
  intro s i rest g p x y hq hp hreqs hr hx hy hsingle
  refine ⟨length_windowReads .., ?_⟩
  have hstep : step s = .next (acceptReduction (encode i) i.count { s with reqs := rest }) := by
    rw [step_quiet hq.1, unitStep_idle_ok hp hreqs (decode_encode i)]
    exact exec_reduction_idle hr hp
  obtain ⟨t, hrun, hphase, hcur, hout, hreads, hmem, htreqs, hrsps, hconfig, hquiet⟩ :=
    answersAfter_acceptReduction (s := { s with reqs := rest }) hq hr ⟨hx, hy, hsingle⟩
  obtain ⟨fcur, fmem, freqs, frsps, fconfig, freads⟩ :=
    acceptReduction_frame (encode i) i.count { s with reqs := rest }
  rw [freads] at hreads
  refine ⟨t, ?_, hphase, hcur.trans fcur, hout, hreads, hmem.trans fmem, htreqs.trans freqs, hrsps.trans frsps,
    hconfig.trans fconfig, hquiet⟩
  rw [Nat.add_comm, run_succ_next hstep, hrun]

end Sys2Proof.Machine
end

section
/-! PROOFS. How operations end (60_exceptions.md R150 to R154, R157): the status each class of operation can answer
with, and that no step stops the machine. -/

namespace Sys2Proof.Machine

/-! ### The status of a response (R150) -/

theorem responseTo_illegal {c : ConfigChoice} {r : Request} (h : operationOf c r.op = .illegal) (m : Memory) :
    responseTo c m r = responseOf statusIllegalOp 0#64 := by
  simp only [responseTo, h]

theorem mem_elementReads {p : Bool} {a b : Word} {start : Word32} {j : Nat} {wa : Word} :
    wa ∈ elementReads p a b start j ↔
      wa = elementAddress a start j ∨ (p = true ∧ wa = elementAddress b start j) := by
  cases p <;> simp [elementReads_single, elementReads_pair]

theorem mem_windowReads {p : Bool} {a b : Word} {start : Word32} {n : Nat} {wa : Word} :
    wa ∈ windowReads p a b start n ↔
      ∃ j < n, wa = elementAddress a start j ∨ (p = true ∧ wa = elementAddress b start j) := by
  simp only [windowReads_eq_flatMap, List.mem_flatMap, List.mem_range, mem_elementReads]

theorem pos_of_mem_windowReads {p : Bool} {a b : Word} {start : Word32} {n : Nat} {wa : Word}
    (h : wa ∈ windowReads p a b start n) : 0 < n := by
  obtain ⟨j, hj, -⟩ := mem_windowReads.1 h
  exact Nat.zero_lt_of_lt hj

/-- R43, R47: a reduction reads the words of its window. -/
theorem inWindow_of_mem_windowReads {i : Instr} {g : Word → Word → Word} {p : Bool} {wa : Word}
    (hr : reductionOf i = some (g, p)) (h : wa ∈ windowReads p i.a i.b i.start i.count.toNat) :
    inWindow (encode i) wa := by
  obtain ⟨hi, hpair⟩ := reductionOf_pairwise hr
  exact ⟨i, decode_encode i, hi, hpair ▸ mem_windowReads.1 h⟩

/-- R150, R151: the response is a total, or the fault of one of the reads `was`, which answers `Err`. -/
def TotalOrFault (m : Memory) (was : List Word) (out : Response) : Prop :=
  (∃ total, out = responseOf statusOk total) ∨
    ∃ wa ∈ was, m.word? wa = none ∧ out = responseOf statusAccessFault wa

/-- R122, R151: the loop over the elements from `j` of a window of `count` elements ends in one of the two ways. -/
theorem reduceFrom_totalOrFault (m : Memory) (g : Word → Word → Word) (p : Bool) (a b : Word) (start : Word32)
    {count n j : Nat} (acc : Word) (hn : j + n = count) :
    TotalOrFault m (windowReads p a b start count) (reduceFrom m g p a b start n j acc) := by
  induction n generalizing j acc with
  | zero => exact .inl ⟨acc, rfl⟩
  | succ n ih =>
    have hj : j < count := by omega
    have hnext : j + 1 + n = count := by omega
    cases hx : m.word? (elementAddress a start j) with
    | none => exact .inr ⟨_, mem_windowReads.2 ⟨j, hj, .inl rfl⟩, hx, reduceFrom_err_a hx⟩
    | some x =>
      cases p with
      | false => rw [reduceFrom_single hx]; exact ih _ hnext
      | true =>
        cases hy : m.word? (elementAddress b start j) with
        | none => exact .inr ⟨_, mem_windowReads.2 ⟨j, hj, .inr ⟨rfl, rfl⟩⟩, hy, reduceFrom_err_b hx hy⟩
        | some y => rw [reduceFrom_pair hx hy]; exact ih _ hnext

/-- R151: a reduction can end with the fault of a window word only, and its window is then not empty. -/
theorem responseTo_reduction_status {i : Instr} {g : Word → Word → Word} {p : Bool}
    (hr : reductionOf i = some (g, p)) (c : ConfigChoice) (m : Memory) :
    responseStatus (responseTo c m (encode i)) = 0#8 ∨
      (responseStatus (responseTo c m (encode i)) = 1#8 ∧ i.count ≠ 0#32 ∧
        m.word? (responseValue (responseTo c m (encode i))) = none ∧
        inWindow (encode i) (responseValue (responseTo c m (encode i)))) := by
  rw [responseTo_reduction hr]
  rcases reduceFrom_totalOrFault m g p i.a i.b i.start 0#64 (Nat.zero_add i.count.toNat) with
    ⟨total, h⟩ | ⟨wa, hwa, herr, h⟩ <;> rw [h]
  · exact .inl (responseStatus_responseOf ..)
  · have hcount : i.count ≠ 0#32 := fun hzero => by simpa [hzero] using pos_of_mem_windowReads hwa
    rw [responseStatus_responseOf, responseValue_responseOf]
    exact .inr ⟨rfl, hcount, herr, inWindow_of_mem_windowReads hr hwa⟩

/-- Settles O35, by what the packet decodes to. -/
theorem statusCodesByOperation : Obligations.StatusCodesByOperation := by
  intro c m r
  rcases operation_cases c r with ⟨hd, hop⟩ | ⟨i, f, hd, -, hv⟩ | ⟨i, g, p, hd, -, hr, -⟩ <;> rw [hd]
  · exact responseTo_illegal hop m
  · have hscalar : isReduction i = false := by rw [isReduction, reductionOf_eq_none hv]; rfl
    rw [← encode_of_decode hd, responseTo_scalar hv]
    exact ⟨fun _ => responseStatus_responseOf .., fun hi => by simp [hscalar] at hi⟩
  · obtain ⟨hi, -⟩ := reductionOf_pairwise hr
    rw [← encode_of_decode hd]
    exact ⟨fun hn => by simp [hi] at hn, fun _ => responseTo_reduction_status hr c m⟩

/-! ### No step stops the machine (R154, R157) -/

/-- The one stop of `exec` is a scalar operation in `BUSY`. -/
theorem exec_goes_on {s : State} {i : Instr} (h : s.phase = .busy → isReduction i = true) :
    ∃ t, exec i s = .next t := by
  cases hp : s.phase with
  | idle =>
    rcases exec_cases i s with ⟨v, -, hidle, -⟩ | ⟨g, p, -, hidle, -⟩ <;> exact ⟨_, hidle hp⟩
  | busy =>
    obtain ⟨g, p, hr⟩ := exists_reductionOf (h hp)
    exact ⟨_, exec_reduction_busy hr hp⟩
  | done => exact ⟨_, exec_done hp i⟩

/-- In `BUSY` the unit holds a reduction, so its step has a meaning in every phase. -/
theorem unitStep_goes_on {s : State} (h : s.phase = .busy → BusyInv s) : ∃ t, unitStep s = .next t := by
  cases hp : s.phase with
  | idle =>
    cases hreqs : s.reqs with
    | nil => exact ⟨s, unitStep_idle_none hp hreqs⟩
    | cons r rest =>
      cases hd : decode r with
      | ok i =>
        rw [unitStep_idle_ok hp hreqs hd]
        exact exec_goes_on fun hb => by simp [hp] at hb
      | error e => exact ⟨_, unitStep_idle_illegal hp hreqs hd⟩
  | busy =>
    obtain ⟨i, hd, hi, -⟩ := h hp
    rw [unitStep_busy_ok hp hd]
    exact exec_goes_on fun _ => hi
  | done => exact ⟨_, unitStep_done hp⟩

/-- Settles O49: the unit's turn by `unitStep_goes_on`; an action of an agent always has its effect. -/
theorem machineNeverStops : Obligations.MachineNeverStops := by
  intro s h
  rcases step_cases s with ⟨s₀, hturn, hs⟩ |
    ⟨rest, ⟨r, -, hs⟩ | ⟨b, -, hs⟩ | ⟨b, -, hs⟩ | ⟨wa, x, -, hs⟩ | ⟨-, hs⟩⟩
  · exact hs ▸ unitStep_goes_on (hturn.inv h).busy
  · exact ⟨_, hs⟩
  · exact ⟨_, hs⟩
  · exact ⟨_, hs⟩
  · exact ⟨_, hs⟩
  · exact ⟨_, hs⟩

end Sys2Proof.Machine
end

section
/-! PROOFS. The run of a reduction up to the first read that answers `Err` (60_exceptions.md R151, 20_memory.md R47). -/

namespace Sys2Proof.Machine

/-! ### The reads still to be sent -/

/-- R47: the reads of the window of `r` from element `j` on, in order. -/
def readsFrom (p : Bool) (r : Request) (j : Nat) : List Word :=
  (List.range' j (r.count.toNat - j)).flatMap (elementReads p r.a r.b r.start)

theorem readsFrom_zero (p : Bool) (r : Request) : readsFrom p r 0 = windowReads p r.a r.b r.start r.count.toNat := by
  rw [readsFrom, windowReads_eq_flatMap, List.range_eq_range', Nat.sub_zero]

theorem readsFrom_of_lt {r : Request} {j : Nat} (h : j < r.count.toNat) (p : Bool) :
    readsFrom p r j = elementReads p r.a r.b r.start j ++ readsFrom p r (j + 1) := by
  obtain ⟨n, hn⟩ : ∃ n, r.count.toNat - j = n + 1 := ⟨r.count.toNat - j - 1, by omega⟩
  rw [readsFrom, readsFrom, hn, show r.count.toNat - (j + 1) = n by omega, List.range'_succ, List.flatMap_cons]

theorem readsFrom_count {r : Request} {j : Nat} (h : j = r.count.toNat) (p : Bool) : readsFrom p r j = [] := by
  rw [readsFrom, h, Nat.sub_self]; rfl

/-- R29, R47: the reads that a reduction in flight has still to send; with array B next, that of array A at this
element has gone out. -/
def pendingReads (p : Bool) (s : State) : List Word :=
  match s.sel with
  | .a => readsFrom p s.cur s.i.toNat
  | .b => elementAddress s.cur.b s.cur.start s.i.toNat :: readsFrom p s.cur (s.i.toNat + 1)

theorem pendingReads_a {s : State} (h : s.sel = .a) (p : Bool) :
    pendingReads p s = readsFrom p s.cur s.i.toNat := by rw [pendingReads, h]

theorem pendingReads_b {s : State} (h : s.sel = .b) (p : Bool) :
    pendingReads p s = elementAddress s.cur.b s.cur.start s.i.toNat :: readsFrom p s.cur (s.i.toNat + 1) := by
  rw [pendingReads, h]

/-- A reduction in flight with a read to send: its index is in the window (R27). -/
structure HasPendingRead (g : Word → Word → Word) (p : Bool) (s : State) : Prop extends Reducing g p s where
  index : s.i.toNat < s.cur.count.toNat

/-- In `t` exactly the reads `was` are still to be sent; with none left nothing is said of `t`. -/
def Pending (g : Word → Word → Word) (p : Bool) (was : List Word) (t : State) : Prop :=
  was ≠ [] → HasPendingRead g p t ∧ pendingReads p t = was

section
variable {g : Word → Word → Word} {p : Bool} {s : State}

/-- R29: after an element is counted, the reads of the elements after it are left. -/
theorem Reducing.countElement_pending (h : Reducing g p s) (hi : s.i.toNat < s.cur.count.toNat) (e : Word) :
    Pending g p (readsFrom p s.cur (s.i.toNat + 1)) (countElement e s.cur.count s) := by
  have hnext : (s.i + 1#33).toNat = s.i.toNat + 1 := next_index_toNat hi
  intro hne
  have hmore : (s.i + 1#33).toNat ≠ s.cur.count.toNat := fun hlast => hne (readsFrom_count (hnext ▸ hlast) p)
  rw [countElement_more hmore, ← hnext]
  refine ⟨⟨⟨h.quiet, h.busy, h.operation⟩, ?_⟩, pendingReads_a rfl p⟩
  simp only; omega

/-- R29: the read a reduction in flight sends next is the first of the pending reads. -/
theorem HasPendingRead.pendingReads_eq (h : HasPendingRead g p s) :
    pendingReads p s = nextAddress s.cur.a s.cur.b s.cur.start s :: (pendingReads p s).tail := by
  cases hsel : s.sel with
  | a =>
    rw [pendingReads_a hsel, readsFrom_of_lt h.index, nextAddress_a hsel]
    cases p <;> rfl
  | b => rw [pendingReads_b hsel, nextAddress_b hsel]; rfl

/-- R29: a READ that is answered with data leaves the pending reads after the first. -/
theorem HasPendingRead.readStep_pending (h : HasPendingRead g p s) {d : Word}
    (hd : s.mem.word? (nextAddress s.cur.a s.cur.b s.cur.start s) = some d) :
    Pending g p (pendingReads p s).tail (readStep g p s.cur.a s.cur.b s.cur.start s.cur.count s) := by
  have hcount (e wa : Word) :
      Pending g p (readsFrom p s.cur (s.i.toNat + 1)) (countElement e s.cur.count (sendRead wa s)) :=
    Reducing.countElement_pending (s := sendRead wa s) ⟨h.quiet, h.busy, h.operation⟩ h.index e
  cases hsel : s.sel with
  | a =>
    rw [pendingReads_a hsel, readsFrom_of_lt h.index]
    cases p with
    | false =>
      rw [readStep_data_count h.quiet.2 g _ (by simp) hd]
      exact hcount _ _
    | true =>
      rw [readStep_data_first h.quiet.2 g _ hsel hd]
      exact fun _ => ⟨⟨⟨h.quiet, h.busy, h.operation⟩, h.index⟩, pendingReads_b rfl true⟩
  | b =>
    rw [pendingReads_b hsel, readStep_data_count h.quiet.2 g _ (by simp [hsel]) hd]
    exact hcount _ _

/-- R151: the pending reads go out up to the first that answers `Err`, and that one is reported. -/
theorem HasPendingRead.answersAfter_fault {before after : List Word} {wa : Word} {s : State}
    (h : HasPendingRead g p s) (hpending : pendingReads p s = before ++ wa :: after)
    (hbefore : ∀ wa' ∈ before, s.mem.word? wa' ≠ none) (herr : s.mem.word? wa = none) :
    AnswersAfter (before ++ [wa]) (responseOf statusAccessFault wa) s := by
  induction before generalizing s with
  | nil =>
    obtain ⟨rfl, -⟩ := List.cons.inj (h.pendingReads_eq.symm.trans hpending)
    apply h.answersAfter_cons
    rw [readStep_err h.quiet.2 g p _ herr]
    exact answersAfter_nil h.quiet rfl rfl
  | cons first before ih =>
    obtain ⟨rfl, htail⟩ := List.cons.inj (h.pendingReads_eq.symm.trans hpending)
    obtain ⟨hfirst, hbefore⟩ := List.forall_mem_cons.1 hbefore
    obtain ⟨d, hd⟩ := Option.ne_none_iff_exists'.1 hfirst
    obtain ⟨hnext, hrest⟩ := h.readStep_pending hd (by simp [htail])
    obtain ⟨-, -, -, -, -, fmem, -⟩ := readStep_frame g p s.cur.a s.cur.b s.cur.start s.cur.count s
    exact h.answersAfter_cons (ih hnext (hrest.trans htail) (fmem.symm ▸ hbefore) (fmem.symm ▸ herr))

end

/-- R28, R151: a reduction just accepted, over a window whose read `wa` is the first to answer `Err`. -/
theorem answersAfter_acceptReduction_fault {i : Instr} {g : Word → Word → Word} {p : Bool}
    {before after : List Word} {wa : Word} {s : State} (hq : Quiet s) (hr : reductionOf i = some (g, p))
    (hreads : windowReads p i.a i.b i.start i.count.toNat = before ++ wa :: after)
    (hbefore : ∀ wa' ∈ before, s.mem.word? wa' ≠ none) (herr : s.mem.word? wa = none) :
    AnswersAfter (before ++ [wa]) (responseOf statusAccessFault wa) (acceptReduction (encode i) i.count s) := by
  have hwa : wa ∈ windowReads p i.a i.b i.start i.count.toNat := by simp [hreads]
  have hcount : 0 < i.count.toNat := pos_of_mem_windowReads hwa
  have hop : operationOf s.config (encode i).op = .reduction g p := by
    rw [op_encode]
    exact operationOf_opcode_reduction hr s.config
  rw [acceptReduction_starts hcount.ne']
  have h : HasPendingRead g p { s with cur := encode i, i := 0#33, sel := .a, acc := 0#64, phase := .busy } :=
    ⟨⟨hq, rfl, hop⟩, by simpa using hcount⟩
  refine h.answersAfter_fault (after := after) ?_ hbefore herr
  rw [pendingReads_a rfl, ← hreads]
  simpa using readsFrom_zero p (encode i)

/-- Settles O33: one step accepts the request, and `answersAfter_acceptReduction_fault`. -/
theorem firstFailingReadIsReported : Obligations.FirstFailingReadIsReported := by
  intro s i rest g p k wa hq hp hreqs hr hk herr hbefore
  obtain ⟨hlt, -⟩ := List.getElem?_eq_some_iff.1 hk
  have hstep : step s = .next (acceptReduction (encode i) i.count { s with reqs := rest }) := by
    rw [step_quiet hq.1, unitStep_idle_ok hp hreqs (decode_encode i)]
    exact exec_reduction_idle hr hp
  have htake : (windowReads p i.a i.b i.start i.count.toNat).take k ++ [wa] =
      (windowReads p i.a i.b i.start i.count.toNat).take (k + 1) := by
    rw [List.take_add_one, hk]; rfl
  have hsplit : windowReads p i.a i.b i.start i.count.toNat =
      (windowReads p i.a i.b i.start i.count.toNat).take k ++
        wa :: (windowReads p i.a i.b i.start i.count.toNat).drop (k + 1) := by
    rw [List.append_cons, htake, List.take_append_drop]
  obtain ⟨t, hrun, hphase, hcur, hout, hreads, hmem, htreqs, hrsps, -⟩ :=
    answersAfter_acceptReduction_fault (s := { s with reqs := rest }) hq hr hsplit hbefore herr
  obtain ⟨fcur, fmem, freqs, frsps, -, freads⟩ := acceptReduction_frame (encode i) i.count { s with reqs := rest }
  rw [htake] at hrun hreads
  rw [List.length_take_of_le hlt] at hrun
  rw [freads] at hreads
  refine ⟨t, ?_, hphase, hcur.trans fcur, hout, hreads, hmem.trans fmem, htreqs.trans freqs, hrsps.trans frsps⟩
  rw [Nat.add_comm, run_succ_next hstep, hrun]

end Sys2Proof.Machine
end

section
/-! PROOFS. Reset, and the end of an operation in flight (70_reset_and_hazards.md R170, R178). -/

namespace Sys2Proof.Machine

/-! ### Reset (R170) -/

/-- Settles O41: the step is `resetUnit`, by its field lemmas. -/
theorem resetAbandonsTheOperation : Obligations.ResetAbandonsTheOperation := by
  intro s rest h
  exact ⟨resetUnit { s with agenda := rest }, step_event h, resetUnit_phase _, resetUnit_rsps _, resetUnit_reads _,
    resetUnit_mem _, resetUnit_reqs _, resetUnit_rspReady _, resetUnit_memReady _, resetUnit_agenda _,
    resetUnit_config _⟩

/-! ### An operation in flight ends (R178) -/

/-- R27, R71: the packet of a quiet unit in `BUSY` names a reduction, whose next element is in the window. -/
theorem BusyInv.reducing {s : State} (h : BusyInv s) (hq : Quiet s) (hp : s.phase = .busy) :
    ∃ g p, Reducing g p s ∧ s.i.toNat < s.cur.count.toNat := by
  obtain ⟨i, hd, hi, hlt, -⟩ := h
  obtain ⟨g, p, hr⟩ := exists_reductionOf hi
  have hcur : s.cur = encode i := (encode_of_decode hd).symm
  have hop : operationOf s.config s.cur.op = .reduction g p := by
    rw [hcur, op_encode]
    exact operationOf_opcode_reduction hr s.config
  exact ⟨g, p, ⟨hq, hp, hop⟩, by rwa [hcur, count_encode]⟩

section
variable {g : Word → Word → Word} {p : Bool} {s : State} {n : Nat}

/-- R29: with array B next, one READ ends the reduction or counts the element, whatever word of array A is held. -/
theorem Reducing.answersWithin_of_second (h : Reducing g p s) (hsel : s.sel = .b)
    (hn : s.i.toNat + 1 + n = s.cur.count.toNat) : ∃ out, AnswersWithin (2 * n + 1) s out := by
  cases hy : s.mem.word? (nextAddress s.cur.a s.cur.b s.cur.start s) with
  | none => exact ⟨_, h.answersWithin_err (2 * n) hy⟩
  | some y =>
    have hread : ∃ out, AnswersWithin (2 * n) (readStep g p s.cur.a s.cur.b s.cur.start s.cur.count s) out := by
      rw [readStep_data_count h.quiet.2 g _ (by simp [hsel]) hy]
      exact ⟨_, Reducing.answersRest n (s := sendRead _ s) ⟨h.quiet, h.busy, h.operation⟩ hn _⟩
    exact hread.imp fun _ => h.answersWithin_succ

/-- R122, R178: from any point of its loop a reduction is answered, within two READs for the next element and for each
of the `n` elements after it. -/
theorem Reducing.answersWithin (h : Reducing g p s) (hn : s.i.toNat + 1 + n = s.cur.count.toNat) :
    ∃ out, AnswersWithin (2 * n + 2) s out := by
  cases hsel : s.sel with
  | a => exact ⟨_, h.answersWithin_element hsel fun u e hu hcur hi => hu.answersRest n (by rw [hcur, hi, hn]) e⟩
  | b =>
    obtain ⟨out, hout⟩ := h.answersWithin_of_second hsel hn
    exact ⟨out, hout.mono (Nat.le_succ _)⟩

end

/-- Settles O51: the window has at most `2 ^ 32 - 1` elements, and `Reducing.answersWithin`. -/
theorem everyReductionTerminates : Obligations.EveryReductionTerminates := by
  intro s h hq hp
  obtain ⟨g, p, hred, hlt⟩ := (h.busy hp).reducing hq hp
  obtain ⟨n, hn⟩ := Nat.exists_eq_add_of_le (Nat.succ_le_of_lt hlt)
  obtain ⟨out, k, hk, t, hrun, hphase, -⟩ := hred.answersWithin hn.symm
  have hcount : s.cur.count.toNat < 2 ^ 32 := s.cur.count.isLt
  exact ⟨k, by omega, t, hrun, hphase⟩

end Sys2Proof.Machine
end

section
/-! PROOFS. Sample packets of 95_test_vectors.md section 2.6, by the laws of the decoder (30_encoding.md R60, R64, R66). -/

namespace Sys2Proof

/-- R60, R71: a packet decodes to an instruction exactly if it is that instruction's packet. -/
theorem decode_eq_ok_iff {r : Request} {i : Instr} : decode r = .ok i ↔ encode i = r :=
  ⟨encode_of_decode, fun h => h ▸ decode_encode i⟩

/-- Settles O3: each legal packet is the encoding of its request (`decode_eq_ok_iff`), and opcode 5 is in no row of the
table (`decode_illegal_iff`). -/
theorem sampleWordsDecode : Obligations.SampleWordsDecode :=
  ⟨decode_eq_ok_iff.2 (by decide), decode_eq_ok_iff.2 (by decide), decode_eq_ok_iff.2 (by decide),
    decode_eq_ok_iff.2 (by decide), (decode_illegal_iff _).2 (by decide)⟩

end Sys2Proof
end
